-- ==== Sys2Proof/Word.lean ====
section
/-! DEFINITION. The words that cross the block's ports (00_scope.md R7, 20_memory.md R37). -/

namespace Sys2Proof

/-- One byte: the operand of `PUSH_BYTE`, an element of `BUF`, a channel operand (20_memory.md R37, 30_encoding.md R49). -/
abbrev Byte := BitVec 8

/-- A command word, `CMD_BITS` = 16 bits (00_scope.md R6, 30_encoding.md R47). -/
abbrev Word := BitVec 16

end Sys2Proof
end

