-- ==== Sys2Proof/Syntax.lean ====
section
/-! DEFINITION. The eight commands of 30_encoding.md R51, one constructor per row of spec/opcode_table.json. -/

namespace Sys2Proof

/-- A command. The only operand is `IMM8`, unsigned (30_encoding.md R49): a data byte or a channel index 0..255. Its type holds
exactly the operands the encoding admits, so no `Instr` is ill-formed. -/
inductive Instr where
  /-- `FRAME_BEGIN` (R59) -/
  | frameBegin
  /-- `PUSH_BYTE b` (R60) -/
  | pushByte (b : Byte)
  /-- `UNPACK` (R67) -/
  | unpack
  /-- `SCALE` (R73) -/
  | scale
  /-- `READ_RAW ch` (R77) -/
  | readRaw (ch : Byte)
  /-- `READ_VOLT ch` (R78) -/
  | readVolt (ch : Byte)
  /-- `READ_ALL_VOLT` (R79) -/
  | readAllVolt
  /-- `READ_STATUS` (R80) -/
  | readStatus
  deriving DecidableEq, Repr

end Sys2Proof
end

