-- ==== Sys2Proof/WellFormed.lean ====
section
/-! DEFINITION. Which command words are legal, by the three checks of 30_encoding.md R52, and which operand values and operand
counts an assembler accepts, by R58. An `Instr` needs no check of its own: its operand's type is the encoding's range. -/

namespace Sys2Proof

/-- The opcode is one of 0x1..0x8 (30_encoding.md R52, first check). -/
def opcodeLegal (w : Word) : Bool := 1 ≤ (w >>> 12).toNat && (w >>> 12).toNat ≤ 8

/-- The reserved field `RSV = cmd[11:8]` is 0000 (30_encoding.md R52, second check). -/
def reservedLegal (w : Word) : Bool := w &&& 0x0F00 == 0

/-- `IMM8` is 0x00 unless OP is 0x2, 0x5 or 0x6 (30_encoding.md R52, third check). -/
def operandLegal (w : Word) : Bool :=
  w &&& 0x00FF == 0 || w >>> 12 == 0x2 || w >>> 12 == 0x5 || w >>> 12 == 0x6

/-- A command word is legal iff all three checks hold (30_encoding.md R52). -/
def wordLegal (w : Word) : Bool := opcodeLegal w && reservedLegal w && operandLegal w

/-- An assembler refuses an `imm` outside 0..255 (30_encoding.md R58). -/
def immLegal (n : Nat) : Bool := n ≤ 255

/-- `ACQUIRE` takes exactly 18 byte operands (30_encoding.md R58). -/
def acquireLegal (operands : List Nat) : Bool :=
  operands.length == 18 && operands.all immLegal

end Sys2Proof
end

