-- ==== Sys2Proof/Decode.lean ====
section
/-! DEFINITION. The decoder of 30_encoding.md R54, total on every 16-bit word, and the encoder of R47 and R51. -/

namespace Sys2Proof

/-- Why a word is ILLEGAL (30_encoding.md R52, R54). Whatever the reason, the block raises `E_ILLEGAL_CMD`. -/
inductive DecodeError where
  /-- a non-zero `RSV` field -/
  | reservedBits
  /-- a non-zero `IMM8` on a command that takes no operand -/
  | unusedOperand
  /-- an opcode 0x0 or 0x9..0xF -/
  | reservedOpcode
  deriving DecidableEq, Repr

/-- `OP = cmd[15:12]` (30_encoding.md R47). -/
def opField (w : Word) : BitVec 4 := w.extractLsb' 12 4

/-- `RSV = cmd[11:8]` (30_encoding.md R47). -/
def rsvField (w : Word) : BitVec 4 := w.extractLsb' 8 4

/-- `IMM8 = cmd[7:0]` (30_encoding.md R47). -/
def immField (w : Word) : Byte := w.extractLsb' 0 8

/-- A command without an operand needs `IMM8 = 0` (30_encoding.md R54). -/
def noOperand (imm : Byte) (i : Instr) : Except DecodeError Instr :=
  if imm = 0 then .ok i else .error .unusedOperand

/-- The decode function (30_encoding.md R54). -/
def decode (w : Word) : Except DecodeError Instr :=
  if rsvField w ≠ 0 then .error .reservedBits
  else match (opField w).toNat with
    | 0x1 => noOperand (immField w) .frameBegin
    | 0x2 => .ok (.pushByte (immField w))
    | 0x3 => noOperand (immField w) .unpack
    | 0x4 => noOperand (immField w) .scale
    | 0x5 => .ok (.readRaw (immField w))
    | 0x6 => .ok (.readVolt (immField w))
    | 0x7 => noOperand (immField w) .readAllVolt
    | 0x8 => noOperand (immField w) .readStatus
    | _ => .error .reservedOpcode

/-- The word with opcode `op`, `RSV = 0000` and operand `imm`: `oooo0000iiiiiiii` (30_encoding.md R47). -/
def packWord (op : BitVec 4) (imm : Byte) : Word := op ++ (0 : BitVec 4) ++ imm

/-- The word of a command (30_encoding.md R51). -/
def encode : Instr → Word
  | .frameBegin => packWord 0x1 0
  | .pushByte b => packWord 0x2 b
  | .unpack => packWord 0x3 0
  | .scale => packWord 0x4 0
  | .readRaw ch => packWord 0x5 ch
  | .readVolt ch => packWord 0x6 ch
  | .readAllVolt => packWord 0x7 0
  | .readStatus => packWord 0x8 0

/-- The instruction the decoder reads from a word given as the bits of spec/opcode_table.json. A command is one 16-bit word
handed over whole (30_encoding.md R48, 20_memory.md R46), so there is no byte order to apply and `nbits` is always 16. -/
def decodeTableWord (_nbits w : Nat) : Option Instr :=
  match decode (BitVec.ofNat 16 w) with
  | .ok i => some i
  | .error _ => none

end Sys2Proof
end

