-- ==== Sys2Proof/Config.lean ====
section
/-! DEFINITION. The block's parameters (00_scope.md R6): the fixed sizes, and the two OPEN parameters a model takes as arguments. -/

namespace Sys2Proof

/-- `N_CH`: the number of channels (00_scope.md R6). -/
abbrev nCh : Nat := 8

/-- `W`: the bits of one sample (00_scope.md R6). -/
abbrev sampleBits : Nat := 18

/-- `FRAME_BYTES`: the bytes of one frame, 144 bits (00_scope.md R6). -/
abbrev frameBytes : Nat := 18

/-- The values of the OPEN parameter `VOLTAGE_FORMAT` (00_scope.md R6, R10): a format of IEEE 754. -/
inductive VoltageFormat where
  | binary32
  | binary64
  deriving DecidableEq, Repr

/-- The OPEN parameters (00_scope.md R6). They are configuration and not state (10_state.md R15): `State` carries them as a
field that no step changes. DESIGN CHOICE, log entry 2. -/
structure Params where
  /-- `VOLTAGE_FORMAT` -/
  voltageFormat : VoltageFormat
  /-- `ZERO_INIT` -/
  zeroInit : Bool
  deriving DecidableEq, Repr

/-- The spec's defaults: binary32 and `ZERO_INIT = false` (00_scope.md R6). -/
def defaultParams : Params := { voltageFormat := .binary32, zeroInit := false }

end Sys2Proof
end

