-- ==== Sys2Proof/Machine/State.lean ====
section
/-! DEFINITION. The block's state (10_state.md R15), the values on its two ports (30_encoding.md R50, 70_reset_and_hazards.md
R108), the ways a step of the model can stop, and the state after reset (10_state.md R31). -/

namespace Sys2Proof.Machine

/-- One value of format F as its IEEE 754 bit pattern, 32 or 64 bits wide (10_state.md R20, 30_encoding.md R56). -/
inductive Voltage where
  | binary32 (bits : BitVec 32)
  | binary64 (bits : BitVec 64)
  deriving DecidableEq, Repr

/-- `+0.0` in format F, the all-zero pattern (30_encoding.md R56). -/
def Voltage.zero : VoltageFormat → Voltage
  | .binary32 => .binary32 0
  | .binary64 => .binary64 0

/-- The fault causes that can be raised (60_exceptions.md R84). Codes 0 and 7 have no constructor: they are never raised. -/
inductive Cause where
  /-- `E_ILLEGAL_CMD`: any word with an illegal encoding -/
  | illegalCmd
  /-- `E_NO_FRAME`: `PUSH_BYTE`, `UNPACK` with OPEN = 0 -/
  | noFrame
  /-- `E_FRAME_OVERRUN`: `PUSH_BYTE` with OPEN = 1 and CNT = 18 -/
  | frameOverrun
  /-- `E_FRAME_INCOMPLETE`: `UNPACK` with OPEN = 1 and CNT < 18 -/
  | frameIncomplete
  /-- `E_UNINIT_SAMPLE`: `SCALE`, in-range `READ_RAW` with SV = 0 -/
  | uninitSample
  /-- `E_UNINIT_VOLT`: in-range `READ_VOLT`, `READ_ALL_VOLT` with VV = 0 -/
  | uninitVolt
  deriving DecidableEq, Repr

/-- A response (30_encoding.md R50). Tags 6 and 7 have no constructor: they are never produced. -/
inductive Response where
  /-- tag 0, `NONE` -/
  | none
  /-- tag 1, `RAW`: a 32-bit two's-complement word -/
  | raw (value : BitVec 32)
  /-- tag 2, `VOLT`: one format-F value -/
  | volt (value : Voltage)
  /-- tag 3, `VOLTS`: eight format-F values, channel 0 first -/
  | volts (values : Vector Voltage 8)
  /-- tag 4, `STATUS`: the 32-bit STATUS word -/
  | status (value : BitVec 32)
  /-- tag 5, `FAULT`: the 3-bit cause code -/
  | fault (code : BitVec 3)
  deriving DecidableEq, Repr

/-- What the host does at the block's boundary (70_reset_and_hazards.md R108). -/
inductive HostEvent where
  /-- the host issues one 16-bit command word -/
  | command (w : Word)
  /-- the host resets the block, between commands; `pending` is the command word that stood on the port at that moment, if
  any (R97) -/
  | reset (pending : Option Word)
  deriving DecidableEq, Repr

/-- The model's own stops with a fault. The block's faults (60_exceptions.md R84) are not among them: they are next states. -/
inductive Fault where
  /-- Raised by `PUSH_BYTE` in an open frame with CNT 19..31, values that "never occur" (10_state.md R17), so `BUF[CNT]` does
  not exist (20_memory.md R39). Safe: no state reachable from reset is of this kind. Log entry 6. -/
  | bufIndexOutOfRange
  deriving DecidableEq, Repr

/-- The model's own refusals. -/
inductive Refusal where
  /-- Raised by `exec` for an instruction that has no meaning yet. Safe. No arm of this model raises it. -/
  | notModelled (mnemonic : String)
  /-- Raised by a command in the fault state when FCAUSE is the reserved code 7, which is never produced, so that "a model that
  meets one must refuse" (93_implementation_defined.md I8). Safe: no state reachable from reset is of this kind. Log entry 7. -/
  | reservedFaultCode
  deriving DecidableEq, Repr

/-- The block's state `(BUF, CNT, OPEN, SAMPLE, VOLT, SV, VV, VC, FAULTED, FCAUSE)` (10_state.md R15) between two of the model's
own parts: the parameters it is built with, and what stands at its two ports. -/
structure State where
  /-- the OPEN parameters, which no step changes (00_scope.md R6; log entry 2) -/
  params : Params
  /-- `BUF[0..17]`, the raw transfer buffer (R16) -/
  buf : Vector Byte 18
  /-- `CNT`, the bytes pushed into the current frame (R17) -/
  cnt : BitVec 5
  /-- `OPEN`, a frame is open (R18) -/
  isOpen : Bool
  /-- `SAMPLE[0..7]`, two's complement (R19) -/
  sample : Vector (BitVec 18) 8
  /-- `VOLT[0..7]` (R20) -/
  volt : Vector Voltage 8
  /-- `SV`, samples valid (R21) -/
  sv : Bool
  /-- `VV`, voltages valid (R22) -/
  vv : Bool
  /-- `VC`, voltages current (R23) -/
  vc : Bool
  /-- `FAULTED` (R24) -/
  faulted : Bool
  /-- `FCAUSE`, the code of the first fault since reset (R25) -/
  fcause : BitVec 3
  /-- the command port: what the host will still do, in the order it does it (70_reset_and_hazards.md R108; log entry 3) -/
  inputs : List HostEvent
  /-- the response port: the responses given so far, oldest first (30_encoding.md R50; log entry 4) -/
  responses : List Response
  deriving DecidableEq, Repr

/-- The state after reset under the parameters `p`, with nothing at the ports (10_state.md R31). The elements R31 gives "no
value" (BUF always; SAMPLE and VOLT under `ZERO_INIT = false`) hold 0 and +0.0. DESIGN CHOICE, log entry 1. -/
def State.resetWith (p : Params) : State where
  params := p
  buf := Vector.replicate 18 0
  cnt := 0
  isOpen := false
  sample := Vector.replicate 8 0
  volt := Vector.replicate 8 (Voltage.zero p.voltageFormat)
  sv := p.zeroInit
  vv := p.zeroInit
  vc := p.zeroInit
  faulted := false
  fcause := 0
  inputs := []
  responses := []

/-- The machine right after reset, with the spec's default parameters (00_scope.md R6, 10_state.md R31). -/
def State.reset : State := State.resetWith defaultParams

end Sys2Proof.Machine
end

