-- ==== Sys2Proof/Machine/Ops.lean ====
section
/-! DEFINITION. The operations the commands share: the ports, the fault-state check, taking a fault, reset, and the writes to the
register files. -/

namespace Sys2Proof.Machine

/-- What one step of the model answers. -/
abbrev StepResult := Host.Outcome State Fault Refusal

/-- `respond(r)`: place the command's one response on the response port (00_scope.md R9, 30_encoding.md R50). -/
def State.respond (s : State) (r : Response) : State :=
  { s with responses := s.responses ++ [r] }

/-- The tag of a response (30_encoding.md R50). -/
def Response.tag : Response → BitVec 3
  | .none => 0
  | .raw _ => 1
  | .volt _ => 2
  | .volts _ => 3
  | .status _ => 4
  | .fault _ => 5

/-- The code of a fault cause (60_exceptions.md R84). -/
def Cause.code : Cause → BitVec 3
  | .illegalCmd => 1
  | .noFrame => 2
  | .frameOverrun => 3
  | .frameIncomplete => 4
  | .uninitSample => 5
  | .uninitVolt => 6

/-- Fault entry, `raise Fault(c)` (60_exceptions.md R85): FAULTED <- 1, FCAUSE <- c, the response (FAULT, c), nothing else. -/
def State.takeFault (s : State) (c : Cause) : State :=
  { s with faulted := true, fcause := c.code }.respond (.fault c.code)

/-- A command ends in a fault entry, which is a next state. -/
def raiseFault (c : Cause) (s : State) : StepResult := .next (s.takeFault c)

/-- A command other than `READ_STATUS` in the fault state is refused with the first cause and changes nothing (60_exceptions.md
R86). Code 7 is never produced, and a model that meets it must refuse (93_implementation_defined.md I8; log entry 7). -/
def refuseCommand (s : State) : StepResult :=
  if s.fcause = 7 then .refused .reservedFaultCode else .next (s.respond (.fault s.fcause))

/-- The fault-state check, which comes before everything else a command does (60_exceptions.md R86, R87; log entry 5). -/
def ifRunning (s : State) (body : State → StepResult) : StepResult :=
  if s.faulted then refuseCommand s else body s

/-- An illegal word (30_encoding.md R52): `Fault(1)` and no other effect, or refused in the fault state. -/
def illegalCommand (s : State) : StepResult := ifRunning s (raiseFault .illegalCmd)

/-- The return from the fault state, and every other reset: each state element takes its reset value, with no response
(60_exceptions.md R89, 70_reset_and_hazards.md R96). The parameters and the two ports are no state elements and stay. -/
def State.takeReset (s : State) : State :=
  { State.resetWith s.params with inputs := s.inputs, responses := s.responses }

/-- The host's next event and the state with that event taken from the port, or none when the host does nothing more
(30_encoding.md R55, 70_reset_and_hazards.md R108; log entry 3). -/
def acceptEvent (s : State) : Option (HostEvent × State) :=
  match s.inputs with
  | [] => none
  | e :: rest => some (e, { s with inputs := rest })

/-- Open a frame: OPEN <- 1, CNT <- 0 (40_frame_input.md R59). -/
def State.openFrame (s : State) : State := { s with isOpen := true, cnt := 0 }

/-- `BUF[CNT] <- b` and `CNT <- CNT + 1`, for a CNT that names an element of BUF (40_frame_input.md R60). -/
def State.storeByte (s : State) (b : Byte) (h : s.cnt.toNat < 18) : State :=
  { s with buf := s.buf.set s.cnt.toNat b h, cnt := s.cnt + 1 }

/-- Write all eight SAMPLE registers in one step (20_memory.md R38). -/
def State.writeSamples (s : State) (v : Vector (BitVec 18) 8) : State := { s with sample := v }

/-- Write all eight VOLT registers in one step (20_memory.md R38). -/
def State.writeVolts (s : State) (v : Vector Voltage 8) : State := { s with volt := v }

end Sys2Proof.Machine
end

