-- ==== Sys2Proof/Machine/FrameInput.lean ====
section
/-! DEFINITION. Frame input: `FRAME_BEGIN` and `PUSH_BYTE` (40_frame_input.md). -/

namespace Sys2Proof.Machine

/-- `FRAME_BEGIN` (40_frame_input.md R59). On an open frame it restarts the frame. -/
def execFrameBegin (s : State) : StepResult :=
  ifRunning s fun s => .next (s.openFrame.respond .none)

/-- `PUSH_BYTE b` (40_frame_input.md R60). CNT 19..31 never occurs (10_state.md R17) and names no element of BUF: log entry 6. -/
def execPushByte (b : Byte) (s : State) : StepResult :=
  ifRunning s fun s =>
    if s.isOpen = false then raiseFault .noFrame s
    else if s.cnt = 18 then raiseFault .frameOverrun s
    else if h : s.cnt.toNat < 18 then .next ((s.storeByte b h).respond .none)
    else .fault .bufIndexOutOfRange

end Sys2Proof.Machine
end

