-- ==== Sys2Proof/Machine/Flags.lean ====
section
/-! DEFINITION. The STATUS view of the control state (10_state.md R26) and the control bits `UNPACK` and `SCALE` write. -/

namespace Sys2Proof.Machine

/-- `STATUS = zext_32(FCAUSE ++ FAULTED ++ VC ++ VV ++ SV ++ OPEN ++ CNT)` (10_state.md R26). -/
def statusWord (s : State) : BitVec 32 :=
  (s.fcause ++ BitVec.ofBool s.faulted ++ BitVec.ofBool s.vc ++ BitVec.ofBool s.vv ++ BitVec.ofBool s.sv
    ++ BitVec.ofBool s.isOpen ++ s.cnt).setWidth 32

/-- The frame is consumed and its samples stand, the voltages now being stale: SV <- 1, VC <- 0, OPEN <- 0, CNT <- 0
(41_unpack.md R67). -/
def State.markUnpacked (s : State) : State :=
  { s with sv := true, vc := false, isOpen := false, cnt := 0 }

/-- The voltages stand and are current: VV <- 1, VC <- 1 (42_scale.md R73). -/
def State.markScaled (s : State) : State :=
  { s with vv := true, vc := true }

end Sys2Proof.Machine
end

