-- ==== Sys2Proof/Machine/Operands.lean ====
section
/-! DEFINITION. The one operand form that needs interpreting, the channel index (30_encoding.md R49), and the eight channels taken
together. A data byte is stored unchanged and needs none. -/

namespace Sys2Proof.Machine

/-- A channel operand, zero-extended and compared with `N_CH = 8` as an unsigned integer (30_encoding.md R49): the register it
selects, or none for 8..255, which "reaches nothing" (20_memory.md R39). -/
def channelIndex (ch : Byte) : Option (Fin 8) :=
  if h : ch.toNat < 8 then some ⟨ch.toNat, h⟩ else none

/-- One value for each channel 0..7, channel 0 first: what a command writes to all eight registers (20_memory.md R38). -/
def perChannel {α : Type} (f : Fin 8 → α) : Vector α 8 :=
  #v[f 0, f 1, f 2, f 3, f 4, f 5, f 6, f 7]

end Sys2Proof.Machine
end

