-- ==== Sys2Proof/Machine/Readout.lean ====
section
/-! DEFINITION. Readout: `READ_RAW`, `READ_VOLT`, `READ_ALL_VOLT` and `READ_STATUS` (43_readout.md). The range check comes before
the written-value check (R81), and no read checks freshness (R82). -/

namespace Sys2Proof.Machine

/-- `sext_32` of a sample (30_encoding.md R57). -/
def rawValue (sample : BitVec 18) : BitVec 32 := sample.signExtend 32

/-- `READ_RAW ch` (43_readout.md R77). -/
def execReadRaw (ch : Byte) (s : State) : StepResult :=
  ifRunning s fun s =>
    match channelIndex ch with
    | none => .next (s.respond (.raw 0))
    | some k =>
      if s.sv = false then raiseFault .uninitSample s
      else .next (s.respond (.raw (rawValue s.sample[k])))

/-- `READ_VOLT ch` (43_readout.md R78). -/
def execReadVolt (ch : Byte) (s : State) : StepResult :=
  ifRunning s fun s =>
    match channelIndex ch with
    | none => .next (s.respond (.volt (Voltage.zero s.params.voltageFormat)))
    | some k =>
      if s.vv = false then raiseFault .uninitVolt s
      else .next (s.respond (.volt s.volt[k]))

/-- `READ_ALL_VOLT` (43_readout.md R79): one snapshot of all eight. -/
def execReadAllVolt (s : State) : StepResult :=
  ifRunning s fun s =>
    if s.vv = false then raiseFault .uninitVolt s
    else .next (s.respond (.volts s.volt))

/-- `READ_STATUS` (43_readout.md R80), the one command that executes normally in the fault state (60_exceptions.md R86). -/
def execReadStatus (s : State) : StepResult :=
  .next (s.respond (.status (statusWord s)))

end Sys2Proof.Machine
end

