-- ==== Sys2Proof/Machine/Float.lean ====
section
/-! DEFINITION. Format-F values and `RNE_F`, round to nearest with ties to even (00_scope.md R10): IEEE 754 binary32 and binary64,
which the spec supplies from general knowledge (93_implementation_defined.md G1, G2). Exact rationals in, one rounding out. -/

namespace Sys2Proof.Machine

/-- Bits of the significand of format F, the leading bit included. -/
def precision : VoltageFormat → Nat
  | .binary32 => 24
  | .binary64 => 53

/-- The exponent of two of format F's least subnormal, which is the finest step between two of its values. -/
def leastExponent : VoltageFormat → Int
  | .binary32 => -149
  | .binary64 => -1074

/-- The width of format F without its sign bit. -/
def magnitudeBits : VoltageFormat → Nat
  | .binary32 => 31
  | .binary64 => 63

/-- The pattern of infinity in format F without its sign bit; every finite magnitude lies below it. -/
def infinityPattern : VoltageFormat → Nat
  | .binary32 => 0x7F800000
  | .binary64 => 0x7FF0000000000000

/-- `n / d` to the nearest integer, ties to the even one (00_scope.md R10). -/
def divNearestEven (n d : Nat) : Nat :=
  if 2 * (n % d) < d then n / d
  else if d < 2 * (n % d) then n / d + 1
  else n / d + n / d % 2

/-- The greatest e with `2^e <= n / d`, for positive n and d. -/
def floorLog2 (n d : Nat) : Int :=
  let e : Int := (n.log2 : Int) - (d.log2 : Int)
  if d * 2 ^ e.toNat ≤ n * 2 ^ (-e).toNat then e else e - 1

/-- The exponent of two of the step between the values of format F around `n / d`: one unit in the last place. -/
def ulpExponent (F : VoltageFormat) (n d : Nat) : Int :=
  max (floorLog2 n d - ((precision F : Int) - 1)) (leastExponent F)

/-- The pattern, without the sign bit, of the value of format F nearest to `n / d`, ties to even. With the step 2^q and the
nearest multiple m of it, exponent field and fraction together are the number `(q - leastExponent) * 2^(precision - 1) + m`, for
normal and subnormal results alike, and when m carries into the next binade. What lies past the last finite value gives
infinity, which no sample reaches. PRESUMED (IEEE 754), log entry 8. -/
def magnitudePattern (F : VoltageFormat) (n d : Nat) : Nat :=
  if n = 0 then 0
  else
    let q := ulpExponent F n d
    let m := divNearestEven (n * 2 ^ (-q).toNat) (d * 2 ^ q.toNat)
    min (infinityPattern F) ((q - leastExponent F).toNat * 2 ^ (precision F - 1) + m)

/-- A value of format F from its sign and its pattern without the sign bit. -/
def Voltage.ofPattern (F : VoltageFormat) (negative : Bool) (m : Nat) : Voltage :=
  match F with
  | .binary32 => .binary32 (BitVec.ofBool negative ++ BitVec.ofNat 31 m)
  | .binary64 => .binary64 (BitVec.ofBool negative ++ BitVec.ofNat 63 m)

/-- `RNE_F(x)` (00_scope.md R10): the value of format F nearest to x, ties to even. `RNE_F(0)` is `+0.0`. -/
def rne (F : VoltageFormat) (x : Rat) : Voltage :=
  Voltage.ofPattern F (decide (x.num < 0)) (magnitudePattern F x.num.natAbs x.den)

/-- The format a value is held in. -/
def Voltage.format : Voltage → VoltageFormat
  | .binary32 _ => .binary32
  | .binary64 _ => .binary64

/-- The sign bit. -/
def Voltage.negative : Voltage → Bool
  | .binary32 b => b.msb
  | .binary64 b => b.msb

/-- The pattern without the sign bit. -/
def Voltage.pattern : Voltage → Nat
  | .binary32 b => b.toNat % 2 ^ 31
  | .binary64 b => b.toNat % 2 ^ 63

/-- The rational that a finite pattern of format F stands for: the exponent field E and the fraction M mean
`M * 2^leastExponent` when E = 0, and `(2^(precision - 1) + M) * 2^(leastExponent + E - 1)` otherwise. -/
def patternValue (F : VoltageFormat) (m : Nat) : Rat :=
  let E := m / 2 ^ (precision F - 1)
  let M := m % 2 ^ (precision F - 1)
  let significand := if E = 0 then M else 2 ^ (precision F - 1) + M
  let e : Int := if E = 0 then leastExponent F else leastExponent F + E - 1
  mkRat (significand * 2 ^ e.toNat : Nat) (2 ^ (-e).toNat)

/-- The rational a format-F value stands for, none for an infinity or a NaN. -/
def Voltage.toRat? (v : Voltage) : Option Rat :=
  if v.pattern < infinityPattern v.format then
    some (if v.negative then -patternValue v.format v.pattern else patternValue v.format v.pattern)
  else none

end Sys2Proof.Machine
end

