-- ==== Sys2Proof/Machine/Scale.lean ====
section
/-! DEFINITION. Voltage scaling: `SCALEV` and `SCALE` (42_scale.md). -/

namespace Sys2Proof.Machine

/-- `VREF`, a constant (00_scope.md R6). -/
def vref : Rat := 5 / 2

/-- `DENOM` = 0xFFFF, kept as the source has it (00_scope.md R6, 42_scale.md R76). -/
def denom : Rat := 65535

/-- A format-F value divided by a positive constant, rounded to format F. An infinity or a NaN divided by one is itself; no
sample meets that case (42_scale.md R75). PRESUMED (IEEE 754), log entry 8. -/
def divideRounded (F : VoltageFormat) (p : Voltage) (d : Rat) : Voltage :=
  match p.toRat? with
  | some x => rne F (x / d)
  | none => p

/-- `SCALEV(s)` (42_scale.md R71): `s * 2.5 / 65535.0`, left to right, each operation rounded to format F. -/
def scaleV (F : VoltageFormat) (s : Int) : Voltage :=
  divideRounded F (rne F (s * vref)) denom

/-- The eight voltages of the eight samples (42_scale.md R73). -/
def scaledVolts (F : VoltageFormat) (sample : Vector (BitVec 18) 8) : Vector Voltage 8 :=
  perChannel fun k => scaleV F sample[k].toInt

/-- `SCALE` (42_scale.md R73). -/
def execScale (s : State) : StepResult :=
  ifRunning s fun s =>
    if s.sv = false then raiseFault .uninitSample s
    else .next (((s.writeVolts (scaledVolts s.params.voltageFormat s.sample)).markScaled).respond .none)

end Sys2Proof.Machine
end

