-- ==== Sys2Proof/Machine/Unpack.lean ====
section
/-! DEFINITION. Unpacking and signed decode: `FIELD`, `DEC18` and `UNPACK` (41_unpack.md). -/

namespace Sys2Proof.Machine

/-- The bit at stream position p: bit `7 - (p mod 8)` of byte `p div 8` (00_scope.md R8, 20_memory.md R34). -/
def streamBit (buf : Vector Byte 18) (p : Fin 144) : Bool :=
  (buf[p.val / 8]'(by omega)).getLsbD (7 - p.val % 8)

/-- The stream value S of a frame, `BUF[0]` its most significant byte (41_unpack.md R63). -/
def streamValue (buf : Vector Byte 18) : BitVec 144 :=
  buf[0] ++ buf[1] ++ buf[2] ++ buf[3] ++ buf[4] ++ buf[5] ++ buf[6] ++ buf[7] ++ buf[8]
    ++ buf[9] ++ buf[10] ++ buf[11] ++ buf[12] ++ buf[13] ++ buf[14] ++ buf[15] ++ buf[16] ++ buf[17]

/-- `FIELD(k) = S[143 - 18k : 126 - 18k]` (41_unpack.md R64). -/
def field (buf : Vector Byte 18) (k : Fin 8) : BitVec 18 :=
  (streamValue buf).extractLsb' (126 - 18 * k.val) 18

/-- `DEC18` (41_unpack.md R68): the signed integer an 18-bit field encodes. -/
def dec18 (v : BitVec 18) : Int :=
  if v &&& 0x20000 = 0 then (v.toNat : Int) else -(((~~~v &&& 0x3FFFF).toNat : Int) + 1)

/-- The eight decoded fields of a frame, as SAMPLE holds them: 18 bits, two's complement (10_state.md R19, 41_unpack.md R67). -/
def unpackedSamples (buf : Vector Byte 18) : Vector (BitVec 18) 8 :=
  perChannel fun k => BitVec.ofInt 18 (dec18 (field buf k))

/-- `UNPACK` (41_unpack.md R67). BUF keeps its bytes, but the frame is closed and cannot be unpacked again. -/
def execUnpack (s : State) : StepResult :=
  ifRunning s fun s =>
    if s.isOpen = false then raiseFault .noFrame s
    else if s.cnt.toNat < 18 then raiseFault .frameIncomplete s
    else .next (((s.writeSamples (unpackedSamples s.buf)).markUnpacked).respond .none)

end Sys2Proof.Machine
end

