-- ==== Sys2Proof/Machine/Dispatch.lean ====
section
/-! DEFINITION. The meaning of each command (30_encoding.md R51), one arm per constructor of `Instr`. -/

namespace Sys2Proof.Machine

def exec (i : Instr) (s : State) : Host.Outcome State Fault Refusal :=
  match i with
  | .frameBegin => Sys2Proof.Machine.execFrameBegin s
  | .pushByte b => Sys2Proof.Machine.execPushByte b s
  | .unpack => Sys2Proof.Machine.execUnpack s
  | .scale => Sys2Proof.Machine.execScale s
  | .readRaw ch => Sys2Proof.Machine.execReadRaw ch s
  | .readVolt ch => Sys2Proof.Machine.execReadVolt ch s
  | .readAllVolt => Sys2Proof.Machine.execReadAllVolt s
  | .readStatus => Sys2Proof.Machine.execReadStatus s

end Sys2Proof.Machine
end

