-- ==== Sys2Proof/Machine/Step.lean ====
section
/-! DEFINITION. One step of the block: it takes the host's next event (30_encoding.md R55, 70_reset_and_hazards.md R96, R108). -/

namespace Sys2Proof.Machine

/-- One step. A command word is decoded and executed, or is illegal; a reset sets every state element, and a word that was
pending is discarded without a response (70_reset_and_hazards.md R97). With no event the block does nothing (R106, R108). -/
def step (s : State) : Host.Outcome State Fault Refusal :=
  match acceptEvent s with
  | none => .next s
  | some (.reset _, s') => .next s'.takeReset
  | some (.command w, s') =>
    match decode w with
    | .ok i => exec i s'
    | .error _ => illegalCommand s'

/-- `s` with the command word `w` standing first at the command port, so that the next step runs exactly it. The block fetches
nothing (20_memory.md R43): a command arrives from the host. Log entry 3. -/
def State.withFetchWord (s : State) (_nbits w : Nat) : State :=
  { s with inputs := .command (BitVec.ofNat 16 w) :: s.inputs }

end Sys2Proof.Machine
end

