-- ==== Sys2Proof/Machine/Assembler.lean ====
section
/-! DEFINITION. The spec's assembler syntax and its one pseudo-instruction, `ACQUIRE` (30_encoding.md R58, 00_scope.md R11). A line
is read as a list of characters. The details R58 leaves open are DESIGN CHOICE, log entry 9. -/

namespace Sys2Proof.Machine

/-- The 20 commands of `ACQUIRE b0, ..., b17` (30_encoding.md R58), the source's busy-edge callback (00_scope.md R5). -/
def acquire (bytes : Vector Byte 18) : List Instr :=
  .frameBegin :: (bytes.toList.map Instr.pushByte ++ [.unpack])

/-- A command without an operand (30_encoding.md R58). -/
def plainCommand (i : Instr) : List Nat → Option (List Instr)
  | [] => some [i]
  | _ :: _ => none

/-- A command with one operand `imm`, refused outside 0..255 (30_encoding.md R58). -/
def immCommand (make : Byte → Instr) : List Nat → Option (List Instr)
  | [n] => if immLegal n then some [make (BitVec.ofNat 8 n)] else none
  | _ => none

/-- `ACQUIRE`, refused with any other operand count than 18 and with an operand outside 0..255 (30_encoding.md R58). -/
def acquireCommand (operands : List Nat) : Option (List Instr) :=
  if acquireLegal operands then
    some (.frameBegin :: (operands.map (fun n => Instr.pushByte (BitVec.ofNat 8 n)) ++ [.unpack]))
  else none

/-- The mnemonics, exactly as in 30_encoding.md R51 and upper case, and `ACQUIRE` (R58). -/
def assembleCommand (mnemonic : List Char) (operands : List Nat) : Option (List Instr) :=
  if mnemonic = "FRAME_BEGIN".toList then plainCommand .frameBegin operands
  else if mnemonic = "PUSH_BYTE".toList then immCommand .pushByte operands
  else if mnemonic = "UNPACK".toList then plainCommand .unpack operands
  else if mnemonic = "SCALE".toList then plainCommand .scale operands
  else if mnemonic = "READ_RAW".toList then immCommand .readRaw operands
  else if mnemonic = "READ_VOLT".toList then immCommand .readVolt operands
  else if mnemonic = "READ_ALL_VOLT".toList then plainCommand .readAllVolt operands
  else if mnemonic = "READ_STATUS".toList then plainCommand .readStatus operands
  else if mnemonic = "ACQUIRE".toList then acquireCommand operands
  else none

/-- A digit of base 10 or 16, if the character is one. -/
def digitValue (base : Nat) (c : Char) : Option Nat :=
  let n := c.toNat
  let v := if 48 ≤ n ∧ n ≤ 57 then n - 48 else if 65 ≤ n ∧ n ≤ 70 then n - 55 else if 97 ≤ n ∧ n ≤ 102 then n - 87 else base
  if v < base then some v else none

/-- The number that the digits `cs` add to `acc` in a base. -/
def digitsValue (base acc : Nat) : List Char → Option Nat
  | [] => some acc
  | c :: cs => (digitValue base c).bind fun d => digitsValue base (base * acc + d) cs

/-- An operand: `0x` and hexadecimal digits, or decimal digits (30_encoding.md R58). -/
def parseImm : List Char → Option Nat
  | '0' :: 'x' :: c :: cs => digitsValue 16 0 (c :: cs)
  | c :: cs => digitsValue 10 0 (c :: cs)
  | [] => none

/-- White space between the parts of a line: space and tab. -/
def isBlank (c : Char) : Bool := c == ' ' || c == '\t'

/-- A text without white space at its ends. -/
def trimBlanks (cs : List Char) : List Char :=
  ((cs.dropWhile isBlank).reverse.dropWhile isBlank).reverse

/-- The parts of a text between its commas. -/
def splitCommas : List Char → List (List Char)
  | [] => [[]]
  | ',' :: cs => [] :: splitCommas cs
  | c :: cs =>
    match splitCommas cs with
    | [] => [[c]]
    | part :: parts => (c :: part) :: parts

/-- The operands of a line: none, or numbers separated by commas. -/
def parseOperands (cs : List Char) : Option (List Nat) :=
  if trimBlanks cs = [] then some []
  else (splitCommas cs).mapM fun part => parseImm (trimBlanks part)

/-- One line of assembler: a comment starts with `;`, and what stands before it is a mnemonic and its operands (30_encoding.md
R58). A line without a command gives no instruction. None where the assembler refuses the line. -/
def assembleLine (line : List Char) : Option (List Instr) :=
  let code := trimBlanks (line.takeWhile (fun c => c != ';'))
  if code = [] then some []
  else
    (parseOperands (code.dropWhile (fun c => !isBlank c))).bind
      (assembleCommand (code.takeWhile (fun c => !isBlank c)))

end Sys2Proof.Machine
end

