-- ==== Sys2Proof/Safety.lean ====
section
/-! DEFINITION. What counts as a clean run (70_reset_and_hazards.md R107), the invariants of 10_state.md R32 and of the tables of
R20 and R84, and what the host can tell two states apart by (R31). -/

namespace Sys2Proof.Machine

/-- A run ends clean iff FAULTED = 0 in its final state (70_reset_and_hazards.md R107). It says nothing of an open frame or of
whether the voltages are current. -/
def State.Clean (s : State) : Prop := s.faulted = false

/-- The invariants (a) to (e) of 10_state.md R32. -/
structure State.Inv (s : State) : Prop where
  /-- (a) -/
  cntAtMost18 : s.cnt.toNat ≤ 18
  /-- (b) -/
  closedHoldsNoByte : s.isOpen = false → s.cnt = 0
  /-- (c) -/
  currentIsValid : s.vc = true → s.sv = true ∧ s.vv = true
  /-- (d) -/
  currentIsScaled : s.vc = true → ∀ k : Fin 8, s.volt[k] = scaleV s.params.voltageFormat s.sample[k].toInt
  /-- (e) -/
  faultedHasCause : s.faulted = false ↔ s.fcause = 0

/-- Every VOLT register holds a value of the block's own format (10_state.md R20). -/
def State.VoltsInFormat (s : State) : Prop :=
  ∀ k : Fin 8, s.volt[k].format = s.params.voltageFormat

/-- FCAUSE holds no reserved code, and under `ZERO_INIT = true` the samples and voltages hold values and codes 5 and 6 do not
occur (60_exceptions.md R84, 10_state.md R21, R22). -/
def State.CauseInTable (s : State) : Prop :=
  s.fcause ≠ 7 ∧ (s.params.zeroInit = true → s.sv = true ∧ s.vv = true ∧ s.fcause ≠ 5 ∧ s.fcause ≠ 6)

/-- Two states that agree on everything that holds a value (10_state.md R31): all but BUF past the bytes of the open frame, SAMPLE
while SV = 0 and VOLT while VV = 0. -/
structure State.SameValues (s t : State) : Prop where
  params : s.params = t.params
  buf : s.isOpen = true → ∀ i : Fin 18, i.val < s.cnt.toNat → s.buf[i] = t.buf[i]
  cnt : s.cnt = t.cnt
  isOpen : s.isOpen = t.isOpen
  sample : s.sv = true → s.sample = t.sample
  volt : s.vv = true → s.volt = t.volt
  sv : s.sv = t.sv
  vv : s.vv = t.vv
  vc : s.vc = t.vc
  faulted : s.faulted = t.faulted
  fcause : s.fcause = t.fcause
  inputs : s.inputs = t.inputs
  responses : s.responses = t.responses

/-- Two steps that end alike: in states that agree on everything that holds a value, or in the same stop. -/
def SameValuesAfter : StepResult → StepResult → Prop
  | .next s, .next t => s.SameValues t
  | .fault f, .fault g => f = g
  | .refused r, .refused q => r = q
  | _, _ => False

/-- A sequence of commands executed in order, up to the first stop (00_scope.md R11). -/
def execAll : List Instr → State → StepResult
  | [], s => .next s
  | i :: is, s =>
    match exec i s with
    | .next t => execAll is t
    | .fault f => .fault f
    | .refused r => .refused r

end Sys2Proof.Machine
end

