-- ==== Sys2Proof/Certificates/Slice0/Obligations.lean ====
section
/-! DEFINITION. The statements for the provers. Each docstring names the rule of spec/ it states or rests on. -/

open Sys2Proof Sys2Proof.Machine

/-! ### Encoding -/

/-- 30_encoding.md R47, R51, R54: every command, with every operand, is decoded from its own word. -/
def Obligations.DecodeInvertsEncode : Prop :=
  ∀ i : Instr, decode (encode i) = .ok i

/-- 30_encoding.md R47, R51, R54: a word that decodes is the word of the command it decodes to, so no command has two words. -/
def Obligations.EncodeInvertsDecode : Prop :=
  ∀ (w : Word) (i : Instr), decode w = .ok i → encode i = w

/-- 30_encoding.md R51: each row of the opcode map by its match and mask, the operand of its words, and its reserved rows. -/
def Obligations.WordsSelectTheirOpcodeRow : Prop :=
  ∀ w : Word,
    (w &&& 0xFFFF = 0x1000 ↔ decode w = .ok .frameBegin) ∧
    (w &&& 0xFF00 = 0x2000 ↔ ∃ b, decode w = .ok (.pushByte b)) ∧
    (w &&& 0xFFFF = 0x3000 ↔ decode w = .ok .unpack) ∧
    (w &&& 0xFFFF = 0x4000 ↔ decode w = .ok .scale) ∧
    (w &&& 0xFF00 = 0x5000 ↔ ∃ ch, decode w = .ok (.readRaw ch)) ∧
    (w &&& 0xFF00 = 0x6000 ↔ ∃ ch, decode w = .ok (.readVolt ch)) ∧
    (w &&& 0xFFFF = 0x7000 ↔ decode w = .ok .readAllVolt) ∧
    (w &&& 0xFFFF = 0x8000 ↔ decode w = .ok .readStatus) ∧
    (∀ b, decode w = .ok (.pushByte b) ∨ decode w = .ok (.readRaw b) ∨ decode w = .ok (.readVolt b) →
      b.toNat = w.toNat % 256) ∧
    (w.toNat / 4096 = 0 ∨ 9 ≤ w.toNat / 4096 → ∃ e, decode w = .error e)

/-- 30_encoding.md R52: which words are legal, and what an illegal word does, in the running state and in the fault state. -/
def Obligations.IllegalWordRaisesFaultOne : Prop :=
  ∀ (s : State) (w : Word) (rest : List HostEvent), s.inputs = .command w :: rest → s.CauseInTable →
    ((∃ i, decode w = .ok i) ↔
      (1 ≤ w.toNat / 4096 ∧ w.toNat / 4096 ≤ 8) ∧ w.toNat / 256 % 16 = 0 ∧
      (w.toNat % 256 = 0 ∨ w.toNat / 4096 = 2 ∨ w.toNat / 4096 = 5 ∨ w.toNat / 4096 = 6)) ∧
    (wordLegal w = true ↔ ∃ i, decode w = .ok i) ∧
    ((¬ ∃ i, decode w = .ok i) → s.faulted = false →
      step s = .next { s with inputs := rest, faulted := true, fcause := 1, responses := s.responses ++ [.fault 1] }) ∧
    ((¬ ∃ i, decode w = .ok i) → s.faulted = true →
      step s = .next { s with inputs := rest, responses := s.responses ++ [.fault s.fcause] })

/-- 30_encoding.md R54: "Exactly 3 x 256 + 5 = 773 of the 65536 words are legal." -/
def Obligations.LegalWordsNumber773 : Prop :=
  (List.range 65536).countP (fun n => (decode (BitVec.ofNat 16 n)).isOk) = 3 * 256 + 5

/-- 95_test_vectors.md section 2.1: words written out from the encoding, and what they decode to. -/
def Obligations.ListedWordsDecodeAsListed : Prop :=
  decode 0x1000 = .ok .frameBegin ∧ decode 0x20A5 = .ok (.pushByte 0xA5) ∧ decode 0x3000 = .ok .unpack ∧
  decode 0x4000 = .ok .scale ∧ decode 0x5008 = .ok (.readRaw 8) ∧ decode 0x60FF = .ok (.readVolt 255) ∧
  decode 0x7000 = .ok .readAllVolt ∧ decode 0x8000 = .ok .readStatus ∧
  decode 0x0000 = .error .reservedOpcode ∧ decode 0x1001 = .error .unusedOperand ∧
  decode 0x4100 = .error .reservedBits ∧ decode 0xF0FF = .error .reservedOpcode

/-- 30_encoding.md R58: the assembler takes `imm` in 0..255 only, and `ACQUIRE` with exactly 18 operands only, which gives 20
commands: `FRAME_BEGIN`, the 18 pushes in order, `UNPACK`. -/
def Obligations.AssemblerChecksItsOperands : Prop :=
  (∀ n : Nat,
    assembleCommand "PUSH_BYTE".toList [n] = (if n ≤ 255 then some [.pushByte (BitVec.ofNat 8 n)] else none) ∧
    assembleCommand "READ_RAW".toList [n] = (if n ≤ 255 then some [.readRaw (BitVec.ofNat 8 n)] else none) ∧
    assembleCommand "READ_VOLT".toList [n] = (if n ≤ 255 then some [.readVolt (BitVec.ofNat 8 n)] else none)) ∧
  (∀ ns : List Nat, (∃ is, assembleCommand "ACQUIRE".toList ns = some is) ↔ ns.length = 18 ∧ ∀ n ∈ ns, n ≤ 255) ∧
  (∀ bytes : Vector Byte 18,
    assembleCommand "ACQUIRE".toList (bytes.toList.map BitVec.toNat) = some (acquire bytes) ∧ (acquire bytes).length = 20 ∧
    (acquire bytes)[0]? = some .frameBegin ∧ (acquire bytes)[19]? = some .unpack ∧
    ∀ i : Fin 18, (acquire bytes)[i.val + 1]? = some (.pushByte bytes[i]))

/-! ### The step -/

/-- 30_encoding.md R55: a step accepts one command word, decodes it and executes it; the word leaves the port. -/
def Obligations.StepRunsTheDecodedCommand : Prop :=
  (∀ (s : State) (w : Word) (rest : List HostEvent) (i : Instr),
    s.inputs = .command w :: rest → decode w = .ok i → step s = exec i { s with inputs := rest }) ∧
  (∀ (s : State) (w : Nat) (i : Instr), decode (BitVec.ofNat 16 w) = .ok i → step (s.withFetchWord 16 w) = exec i s)

/-- 70_reset_and_hazards.md R96: the reset event sets every state element to its value in 10_state.md R31 and produces no
response, in any state. BUF, and SAMPLE and VOLT without ZERO_INIT, get "no value" and are not mentioned. A pending word is
discarded (R97). -/
def Obligations.ResetEventSetsEveryElement : Prop :=
  ∀ (s : State) (pending : Option Word) (rest : List HostEvent), s.inputs = .reset pending :: rest →
    ∃ t, step s = .next t ∧ t.cnt = 0 ∧ t.isOpen = false ∧ t.sv = s.params.zeroInit ∧ t.vv = s.params.zeroInit ∧
      t.vc = s.params.zeroInit ∧ t.faulted = false ∧ t.fcause = 0 ∧
      (s.params.zeroInit = true → ∀ k : Fin 8, t.sample[k] = 0 ∧ t.volt[k] = Voltage.zero s.params.voltageFormat) ∧
      statusWord t = (if s.params.zeroInit then 0x000001C0 else 0x00000000) ∧
      t.params = s.params ∧ t.inputs = rest ∧ t.responses = s.responses

/-- 10_state.md R31, 70_reset_and_hazards.md R98: the state after power-on, for every setting of the parameters, in the elements R31
gives a value; and the model's machine starts with the spec's default parameters (00_scope.md R6), which is the model's choice
(log entry 2). -/
def Obligations.PowerOnStateHoldsResetValues : Prop :=
  State.reset.params = ⟨.binary32, false⟩ ∧
  ∀ p : Params,
    (State.resetWith p).cnt = 0 ∧ (State.resetWith p).isOpen = false ∧ (State.resetWith p).sv = p.zeroInit ∧
    (State.resetWith p).vv = p.zeroInit ∧ (State.resetWith p).vc = p.zeroInit ∧ (State.resetWith p).faulted = false ∧
    (State.resetWith p).fcause = 0 ∧
    (p.zeroInit = true → ∀ k : Fin 8, (State.resetWith p).sample[k] = 0 ∧
      (State.resetWith p).volt[k] = Voltage.zero p.voltageFormat) ∧
    statusWord (State.resetWith p) = (if p.zeroInit then 0x000001C0 else 0x00000000)

/-- 70_reset_and_hazards.md R106, R108: the block never initiates anything, so with nothing at the command port a step changes
nothing. That such a step exists is the model's convention (log entry 3). -/
def Obligations.EmptyPortChangesNothing : Prop :=
  ∀ s : State, s.inputs = [] → step s = .next s

/-- 30_encoding.md R50: exactly one response for every command, with the tag of the command's row, and the `FAULT` response iff the
command faults or is refused in the fault state. -/
def Obligations.EveryCommandGetsOneResponse : Prop :=
  ∀ (s t : State) (w : Word) (rest : List HostEvent), s.inputs = .command w :: rest → step s = .next t →
    ∃ r, t.responses = s.responses ++ [r] ∧ t.inputs = rest ∧ r.tag.toNat ≤ 5 ∧
      (r.tag = 5 ↔ t.faulted = true ∧ w ≠ 0x8000) ∧
      (r.tag ≠ 5 → ∃ i, decode w = .ok i ∧
        (i = .frameBegin ∨ (∃ b, i = .pushByte b) ∨ i = .unpack ∨ i = .scale ↔ r.tag = 0) ∧
        ((∃ ch, i = .readRaw ch) ↔ r.tag = 1) ∧ ((∃ ch, i = .readVolt ch) ↔ r.tag = 2) ∧
        (i = .readAllVolt ↔ r.tag = 3) ∧ (i = .readStatus ↔ r.tag = 4)) ∧
      (r.tag = 5 → r = .fault t.fcause)

/-- 70_reset_and_hazards.md R99, R106: the block never hangs: under the invariants, a step answers a next state whatever stands at
the command port. -/
def Obligations.StepAlwaysAnswersANextState : Prop :=
  ∀ s : State, s.Inv → s.CauseInTable → ∃ t, step s = .next t

/-! ### Invariants -/

/-- 10_state.md R32: the invariants (a) to (e), and those of R20 and R84, hold at reset, for every setting of the parameters. Without
ZERO_INIT the VOLT registers hold no value at reset, and the format of the values there is the model's choice (log entry 1). -/
def Obligations.ResetMeetsTheInvariants : Prop :=
  ∀ p : Params, (State.resetWith p).Inv ∧ (State.resetWith p).VoltsInFormat ∧ (State.resetWith p).CauseInTable

/-- 10_state.md R32: the invariants (a) to (e) hold at reset, and every step, from any state that meets them, keeps them. -/
def Obligations.StepKeepsTheStateInvariants : Prop :=
  (∀ p : Params, (State.resetWith p).Inv) ∧ ∀ s t : State, s.Inv → step s = .next t → t.Inv

/-- 10_state.md R20: every step keeps all VOLT registers in the block's format, and the parameters never change (R15). After a reset
event without ZERO_INIT the VOLT registers hold no value by R31, so that their format there is the model's choice (log entry 1,
DESIGN CHOICE), and R20 does not give it. -/
def Obligations.StepKeepsTheVoltageFormat : Prop :=
  ∀ s t : State, s.VoltsInFormat → step s = .next t → t.VoltsInFormat ∧ t.params = s.params

/-- 60_exceptions.md R84: every step keeps FCAUSE off the reserved code 7, and codes 5 and 6 away under ZERO_INIT = true. -/
def Obligations.StepKeepsTheCauseInTheTable : Prop :=
  ∀ s t : State, s.CauseInTable → step s = .next t → t.CauseInTable

/-! ### Frame input -/

/-- 40_frame_input.md R59: `FRAME_BEGIN`: its word, its effect and frame in every running state, that every other word of its opcode
raises `E_ILLEGAL_CMD`, the fault-state refusal, and the rule's example. -/
def Obligations.FrameBeginOpensAFrame : Prop :=
  encode .frameBegin = 0x1000 ∧
  (∀ (s : State) (w : Word) (rest : List HostEvent), w.toNat / 4096 = 1 → w ≠ 0x1000 → s.faulted = false →
    s.inputs = .command w :: rest →
    step s = .next { s with inputs := rest, faulted := true, fcause := 1, responses := s.responses ++ [.fault 1] }) ∧
  (∀ s : State, s.faulted = false →
    exec .frameBegin s = .next { s with isOpen := true, cnt := 0, responses := s.responses ++ [.none] }) ∧
  (∀ s : State, s.CauseInTable → s.faulted = true →
    exec .frameBegin s = .next { s with responses := s.responses ++ [.fault s.fcause] }) ∧
  (∃ t, exec .frameBegin State.reset = .next t ∧ statusWord t = 0x00000020)

/-- 40_frame_input.md R60: `PUSH_BYTE b`: its word, its two faults in order, its effect and frame, and the rule's example. -/
def Obligations.PushByteAppendsToTheFrame : Prop :=
  ∀ b : Byte,
    (encode (.pushByte b)).toNat = 0x2000 + b.toNat ∧
    (∀ s : State, s.faulted = false → s.isOpen = false →
      exec (.pushByte b) s =
        .next { s with faulted := true, fcause := 2, responses := s.responses ++ [.fault 2] }) ∧
    (∀ s : State, s.faulted = false → s.isOpen = true → s.cnt = 18 →
      exec (.pushByte b) s =
        .next { s with faulted := true, fcause := 3, responses := s.responses ++ [.fault 3] }) ∧
    (∀ s : State, s.faulted = false → s.isOpen = true → s.cnt.toNat < 18 →
      ∃ t, exec (.pushByte b) s = .next t ∧
        t = { s with buf := t.buf, cnt := t.cnt, responses := s.responses ++ [.none] } ∧
        t.cnt.toNat = s.cnt.toNat + 1 ∧
        ∀ i : Fin 18, t.buf[i] = if i.val = s.cnt.toNat then b else s.buf[i]) ∧
    (∃ t u, exec .frameBegin State.reset = .next t ∧ exec (.pushByte 0xA5) t = .next u ∧ u.buf[0] = 0xA5 ∧ u.cnt = 1 ∧
      statusWord u = 0x00000021)

/-- 10_state.md R17, 20_memory.md R39: CNT 19..31 names no element of BUF and never occurs; the model stops there by name, which is the
model's choice (log entry 6). -/
def Obligations.PushByteStopsPastTheBuffer : Prop :=
  ∀ (s : State) (b : Byte), s.faulted = false → s.isOpen = true → 18 < s.cnt.toNat →
    exec (.pushByte b) s = .fault .bufIndexOutOfRange

/-- 40_frame_input.md R61, R62, 41_unpack.md R67, 30_encoding.md R58: the 20 words of `ACQUIRE`, run from any running state, leave
the bytes in BUF in order and every sample the decode of its field, and touch nothing else. -/
def Obligations.AcquireDeliversTheFrame : Prop :=
  ∀ (s : State) (bytes : Vector Byte 18) (rest : List HostEvent), s.faulted = false →
    s.inputs = (acquire bytes).map (fun i => HostEvent.command (encode i)) ++ rest →
    ∃ v : Vector (BitVec 18) 8, (∀ k : Fin 8, v[k].toInt = dec18 (field bytes k)) ∧
      Host.Core.run Sys2Proof.core 20 s = .next { s with
        buf := bytes, sample := v, sv := true, vc := false, isOpen := false, cnt := 0, inputs := rest,
        responses := s.responses ++ List.replicate 20 .none }

/-! ### Unpacking -/

/-- 41_unpack.md R63: the stream value is the sum of the bytes with their weights, and its bit `143 - p` is stream position p. -/
def Obligations.StreamValueIsTheWeightedByteSum : Prop :=
  ∀ buf : Vector Byte 18,
    (streamValue buf).toNat = ∑ i : Fin 18, buf[i].toNat * 2 ^ (8 * (17 - i.val)) ∧
    ∀ p : Fin 144, (streamValue buf).getLsbD (143 - p.val) = (buf[p.val / 8]'(by omega)).getLsbD (7 - p.val % 8)

/-- 41_unpack.md R64: `FIELD(k)` by shift and mask, and bit by bit. -/
def Obligations.FieldIsTheChannelWindow : Prop :=
  ∀ (buf : Vector Byte 18) (k : Fin 8),
    (field buf k).toNat = ((streamValue buf).toNat >>> (126 - 18 * k.val)) &&& 0x3FFFF ∧
    ∀ j : Fin 18, (field buf k).getLsbD (17 - j.val) = streamBit buf ⟨18 * k.val + j.val, by omega⟩

/-- 41_unpack.md R65: the byte-level form of every channel's field; `h` picks the half, so that `i = 9 * h`. -/
def Obligations.FieldsHaveTheirByteForms : Prop :=
  ∀ (buf : Vector Byte 18) (h : Fin 2),
    let b : Fin 9 → Nat := fun j => (buf[9 * h.val + j.val]'(by omega)).toNat
    (field buf ⟨4 * h.val, by omega⟩).toNat = (b 0 <<< 10) ||| (b 1 <<< 2) ||| (b 2 >>> 6) ∧
    (field buf ⟨4 * h.val + 1, by omega⟩).toNat = ((b 2 &&& 0x3F) <<< 12) ||| (b 3 <<< 4) ||| (b 4 >>> 4) ∧
    (field buf ⟨4 * h.val + 2, by omega⟩).toNat = ((b 4 &&& 0x0F) <<< 14) ||| (b 5 <<< 6) ||| (b 6 >>> 2) ∧
    (field buf ⟨4 * h.val + 3, by omega⟩).toNat = ((b 6 &&& 0x03) <<< 16) ||| (b 7 <<< 8) ||| b 8

/-- 41_unpack.md R66: the two halves of the frame are independent, and the eight fields in order are the whole stream, so that every
bit belongs to exactly one channel. -/
def Obligations.HalvesOfTheFrameAreIndependent : Prop :=
  (∀ a b : Vector Byte 18, (∀ i : Fin 18, i.val < 9 → a[i] = b[i]) → ∀ k : Fin 8, k.val < 4 → field a k = field b k) ∧
  (∀ a b : Vector Byte 18, (∀ i : Fin 18, 9 ≤ i.val → a[i] = b[i]) → ∀ k : Fin 8, 4 ≤ k.val → field a k = field b k) ∧
  (∀ a : Vector Byte 18,
    streamValue a = field a 0 ++ field a 1 ++ field a 2 ++ field a 3 ++ field a 4 ++ field a 5 ++ field a 6 ++ field a 7)

/-- 41_unpack.md R68: `DEC18` by its formula, its closed form and its range, as a bijection onto that range, and at the source's four
points. -/
def Obligations.SignedDecodeIsTwosComplement : Prop :=
  (∀ v : BitVec 18,
    (v &&& 0x20000 = 0 → dec18 v = v.toNat) ∧
    (v &&& 0x20000 ≠ 0 → dec18 v = -((2 ^ 18 - 1 - v.toNat : Nat) + 1 : Int)) ∧
    dec18 v = (v.toNat : Int) - 2 ^ 18 * (v.getLsbD 17).toNat ∧
    -131072 ≤ dec18 v ∧ dec18 v ≤ 131071) ∧
  (∀ n : Int, -131072 ≤ n → n ≤ 131071 → ∃! v : BitVec 18, dec18 v = n) ∧
  dec18 0 = 0 ∧ dec18 0x1FFFF = 131071 ∧ dec18 0x20000 = -131072 ∧ dec18 0x3FFFF = -1

/-- 41_unpack.md R67: `UNPACK`: its word, its two faults in order, its effect and frame on a complete frame, that a second one
faults, and the rule's example. -/
def Obligations.UnpackDecodesEveryChannel : Prop :=
  encode .unpack = 0x3000 ∧
  (∀ s : State, s.faulted = false → s.isOpen = false →
    exec .unpack s = .next { s with faulted := true, fcause := 2, responses := s.responses ++ [.fault 2] }) ∧
  (∀ s : State, s.faulted = false → s.isOpen = true → s.cnt.toNat < 18 →
    exec .unpack s = .next { s with faulted := true, fcause := 4, responses := s.responses ++ [.fault 4] }) ∧
  (∀ s : State, s.faulted = false → s.isOpen = true → s.cnt = 18 →
    ∃ t, exec .unpack s = .next t ∧ (∀ k : Fin 8, t.sample[k].toInt = dec18 (field s.buf k)) ∧
      t = { s with sample := t.sample, sv := true, vc := false, isOpen := false, cnt := 0,
                   responses := s.responses ++ [.none] } ∧
      ∃ u, exec .unpack t = .next u ∧ u.fcause = 2) ∧
  (∀ (s t : State), s.faulted = false → s.isOpen = true → s.cnt = 18 →
    s.buf = #v[0xFF, 0xFF, 0xC0, 0, 0, 0, 0, 0, 0, 0, 0, 0, 0, 0, 0, 0, 0, 0] → exec .unpack s = .next t →
    t.sample.toList.map BitVec.toInt = [-1, 0, 0, 0, 0, 0, 0, 0])

/-! ### Scaling -/

/-- 42_scale.md R73: `SCALE`: its word, its fault, its effect and frame, also while a frame is open, and the rule's example. -/
def Obligations.ScaleConvertsEverySample : Prop :=
  encode .scale = 0x4000 ∧
  (∀ s : State, s.faulted = false → s.sv = false →
    exec .scale s = .next { s with faulted := true, fcause := 5, responses := s.responses ++ [.fault 5] }) ∧
  (∀ s : State, s.faulted = false → s.sv = true →
    ∃ t, exec .scale s = .next t ∧
      t = { s with volt := t.volt, vv := true, vc := true, responses := s.responses ++ [.none] } ∧
      (∀ k : Fin 8, t.volt[k] = scaleV s.params.voltageFormat s.sample[k].toInt) ∧
      (s.params.voltageFormat = .binary32 → s.sample[0].toInt = 65535 → t.volt[0] = .binary32 0x40200000))

/-- 00_scope.md R10: `RNE_F(x)` is a finite value of format F, none is nearer to x, and where another is as near the significand chosen
is even; for every rational x between the least and the greatest finite value. That the format has subnormal values, and that x is
rounded to them below the normal range, is IEEE 754's (93_implementation_defined.md G1; log entry 8, PRESUMED). -/
def Obligations.RneIsNearestTiesToEven : Prop :=
  ∀ (F : VoltageFormat) (x : Rat), |x| ≤ patternValue F (infinityPattern F - 1) →
    (rne F x).format = F ∧ ∃ y, (rne F x).toRat? = some y ∧
      (∀ (v : Voltage) (z : Rat), v.format = F → v.toRat? = some z → |x - y| ≤ |x - z|) ∧
      (∀ (v : Voltage) (z : Rat), v.format = F → v.toRat? = some z → |x - y| = |x - z| → z ≠ y →
        (rne F x).pattern % 2 = 0)

/-- 42_scale.md R72, R71: `SCALEV(s)`, two roundings, is one rounding of the exact rational `s / 26214`, in either format. -/
def Obligations.ScalevIsOneRounding : Prop :=
  ∀ (F : VoltageFormat) (s : BitVec 18), scaleV F s.toInt = rne F (s.toInt / 26214)

/-- 42_scale.md R72, step 3: computing in binary64 and storing in binary32 gives the same value for every sample. -/
def Obligations.DoubleRoundingChangesNothing : Prop :=
  ∀ s : BitVec 18, ∃ y, (scaleV .binary64 s.toInt).toRat? = some y ∧ rne .binary32 y = scaleV .binary32 s.toInt

/-- 42_scale.md R72, consequences: finite and never subnormal, `+0.0` at 0, odd, and `j / 2` at `13107 j`. -/
def Obligations.ScalevIsNormalOddAndExactAtHalves : Prop :=
  ∀ F : VoltageFormat,
    (∀ s : BitVec 18, (scaleV F s.toInt).format = F ∧ (scaleV F s.toInt).pattern < infinityPattern F ∧
      (s ≠ 0 → 2 ^ (precision F - 1) ≤ (scaleV F s.toInt).pattern)) ∧
    scaleV F 0 = Voltage.zero F ∧
    (∀ n : Nat, 1 ≤ n → n ≤ 131071 →
      (scaleV F (-n)).pattern = (scaleV F n).pattern ∧ (scaleV F n).negative = false ∧ (scaleV F (-n)).negative = true) ∧
    (∀ j : Int, -10 ≤ j → j ≤ 10 → (scaleV F (13107 * j)).toRat? = some ((j : Rat) / 2))

/-- 42_scale.md R72, consequences: SCALEV is monotonic non-decreasing in the sample. -/
def Obligations.ScalevIsMonotonic : Prop :=
  ∀ (F : VoltageFormat) (s t : BitVec 18), s.toInt ≤ t.toInt →
    ∃ x y, (scaleV F s.toInt).toRat? = some x ∧ (scaleV F t.toInt).toRat? = some y ∧ x ≤ y

/-- 42_scale.md R74: two `SCALE`s with no `UNPACK` between them, whatever other commands stand there, leave identical VOLT
contents. -/
def Obligations.ScaleTwiceGivesTheSameVoltages : Prop :=
  ∀ (s t u v : State) (between : List Instr), Instr.unpack ∉ between → exec .scale s = .next t →
    execAll between t = .next u → exec .scale u = .next v → v.volt = t.volt

/-! ### Readout -/

/-- 43_readout.md R77: `READ_RAW ch`: its word, the sentinel for 8..255, the fault, the sample as a 32-bit two's-complement word, and
that nothing else changes. -/
def Obligations.ReadRawReturnsTheSample : Prop :=
  ∀ ch : Byte,
    (encode (.readRaw ch)).toNat = 0x5000 + ch.toNat ∧
    (∀ s : State, s.faulted = false → 8 ≤ ch.toNat →
      exec (.readRaw ch) s = .next { s with responses := s.responses ++ [.raw 0x00000000] }) ∧
    (∀ s : State, s.faulted = false → ch.toNat < 8 → s.sv = false →
      exec (.readRaw ch) s =
        .next { s with faulted := true, fcause := 5, responses := s.responses ++ [.fault 5] }) ∧
    (∀ (s : State) (h : ch.toNat < 8), s.faulted = false → s.sv = true →
      ∃ r : BitVec 32, exec (.readRaw ch) s = .next { s with responses := s.responses ++ [.raw r] } ∧
        r.toInt = s.sample[ch.toNat].toInt ∧ (s.sample[ch.toNat].toInt = -1 → r = 0xFFFFFFFF))

/-- 30_encoding.md R57: a RAW value is the sample sign-extended to 32 bits, at the rule's three points too, and the sentinel is 0. -/
def Obligations.RawValueIsSignExtended : Prop :=
  (∀ v : BitVec 18, (rawValue v).toInt = v.toInt) ∧
  rawValue (BitVec.ofInt 18 (-1)) = 0xFFFFFFFF ∧ rawValue (BitVec.ofInt 18 (-131072)) = 0xFFFE0000 ∧
  rawValue (BitVec.ofInt 18 131071) = 0x0001FFFF ∧
  (∀ (s t : State) (ch : Byte) (r : BitVec 32), s.faulted = false → exec (.readRaw ch) s = .next t →
    t.responses = s.responses ++ [.raw r] →
    if h : ch.toNat < 8 then r.toInt = s.sample[ch.toNat].toInt else r = 0x00000000)

/-- 43_readout.md R78: `READ_VOLT ch`: its word, the sentinel `+0.0` for 8..255, the fault, the voltage, current or not, and that
nothing else changes. -/
def Obligations.ReadVoltReturnsTheVoltage : Prop :=
  ∀ ch : Byte,
    (encode (.readVolt ch)).toNat = 0x6000 + ch.toNat ∧
    (∀ s : State, s.faulted = false → 8 ≤ ch.toNat →
      exec (.readVolt ch) s =
        .next { s with responses := s.responses ++ [.volt (Voltage.zero s.params.voltageFormat)] }) ∧
    (∀ s : State, s.faulted = false → ch.toNat < 8 → s.vv = false →
      exec (.readVolt ch) s =
        .next { s with faulted := true, fcause := 6, responses := s.responses ++ [.fault 6] }) ∧
    (∀ (s : State) (h : ch.toNat < 8), s.faulted = false → s.vv = true →
      exec (.readVolt ch) s = .next { s with responses := s.responses ++ [.volt s.volt[ch.toNat]] }) ∧
    (∀ F : VoltageFormat, Voltage.zero F = scaleV F 0)

/-- 43_readout.md R79: `READ_ALL_VOLT`: its word, the fault, the snapshot of all eight, that nothing else changes, and that a later
command does not change a response already given; and the rule's example. -/
def Obligations.ReadAllVoltReturnsOneSnapshot : Prop :=
  encode .readAllVolt = 0x7000 ∧
  (∀ s : State, s.faulted = false → s.vv = false →
    exec .readAllVolt s = .next { s with faulted := true, fcause := 6, responses := s.responses ++ [.fault 6] }) ∧
  (∀ s : State, s.faulted = false → s.vv = true →
    exec .readAllVolt s = .next { s with responses := s.responses ++ [.volts s.volt] }) ∧
  (∀ (s t : State) (i : Instr), exec i s = .next t → s.responses <+: t.responses) ∧
  (∀ s t u : State, s.faulted = false → s.sv = true → s.params.voltageFormat = .binary32 →
    s.sample.toList.map BitVec.toInt = [131071, -131072, -1, 0, 65535, 1, 26214, -26214] →
    exec .scale s = .next t → exec .readAllVolt t = .next u →
    u.responses = s.responses ++ [.none, .volts #v[.binary32 0x40A00050, .binary32 0xC0A000A0, .binary32 0xB82000A0,
      .binary32 0x00000000, .binary32 0x40200000, .binary32 0x382000A0, .binary32 0x3F800000, .binary32 0xBF800000]])

/-- 43_readout.md R80: `READ_STATUS`: its word; in every state, the fault state too, it returns STATUS and changes nothing; it is the
one command that does, every other being refused in the fault state; and the rule's examples. -/
def Obligations.ReadStatusReturnsStatusInEveryState : Prop :=
  encode .readStatus = 0x8000 ∧
  (∀ w : Word, w.toNat / 4096 = 8 → w ≠ 0x8000 → ∃ e, decode w = .error e) ∧
  (∀ s : State, exec .readStatus s = .next { s with responses := s.responses ++ [.status (statusWord s)] }) ∧
  (∀ (s : State) (i : Instr), s.CauseInTable → s.faulted = true → i ≠ .readStatus →
    exec i s = .next { s with responses := s.responses ++ [.fault s.fcause] }) ∧
  (∀ f : VoltageFormat, statusWord (State.resetWith ⟨f, false⟩) = 0x00000000) ∧
  (∀ s t : State, s.faulted = false → s.fcause = 0 → s.isOpen = true → s.cnt = 17 → s.sv = false → s.vv = false →
    s.vc = false → exec .unpack s = .next t → statusWord t = 0x00001231)

/-- 10_state.md R26: the layout of STATUS, field by field, with bits [31:13] hardwired to 0, and its reset value. -/
def Obligations.StatusHasItsLayout : Prop :=
  (∀ p : Params, statusWord (State.resetWith p) = (if p.zeroInit then 0x000001C0 else 0x00000000)) ∧
  ∀ s : State,
    (statusWord s).extractLsb' 0 5 = s.cnt ∧ (statusWord s).getLsbD 5 = s.isOpen ∧ (statusWord s).getLsbD 6 = s.sv ∧
    (statusWord s).getLsbD 7 = s.vv ∧ (statusWord s).getLsbD 8 = s.vc ∧ (statusWord s).getLsbD 9 = s.faulted ∧
    (statusWord s).extractLsb' 10 3 = s.fcause ∧ (statusWord s).extractLsb' 13 19 = 0

/-- 43_readout.md R81: an out-of-range read never faults and never changes state, in any non-fault state, whatever SV and VV are. -/
def Obligations.OutOfRangeReadsNeverFault : Prop :=
  ∀ (s : State) (ch : Byte), s.faulted = false → 8 ≤ ch.toNat →
    ∃ t u, exec (.readRaw ch) s = .next t ∧ exec (.readVolt ch) s = .next u ∧
      t = { s with responses := t.responses } ∧ u = { s with responses := u.responses } ∧
      t.responses = s.responses ++ [.raw 0] ∧
      u.responses = s.responses ++ [.volt (Voltage.zero s.params.voltageFormat)]

/-- 20_memory.md R40: a read that does not fault changes no state and is idempotent; one that faults writes only FAULTED and
FCAUSE. -/
def Obligations.ReadsHaveNoSideEffects : Prop :=
  ∀ (s t : State) (i : Instr), (∃ ch, i = .readRaw ch) ∨ (∃ ch, i = .readVolt ch) ∨ i = .readAllVolt ∨ i = .readStatus →
    s.faulted = false → exec i s = .next t →
    (t = { s with faulted := t.faulted, fcause := t.fcause, responses := t.responses }) ∧
    (t.faulted = false → t = { s with responses := t.responses } ∧
      ∃ r u, t.responses = s.responses ++ [r] ∧ exec i t = .next u ∧ u = { t with responses := t.responses ++ [r] })

/-- 70_reset_and_hazards.md R100, 43_readout.md R82: after an `UNPACK` the voltages of the previous samples stay readable, without a
fault and with VC = 0, until the next `SCALE`. -/
def Obligations.StaleVoltagesStayReadable : Prop :=
  ∀ (s : State) (ch : Byte) (h : ch.toNat < 8), s.faulted = false → s.isOpen = true → s.cnt = 18 → s.vv = true →
    ∃ t u, exec .unpack s = .next t ∧ exec (.readVolt ch) t = .next u ∧ t.vc = false ∧ u.vc = false ∧
      u.faulted = false ∧ u.responses = s.responses ++ [.none, .volt s.volt[ch.toNat]]

/-! ### Faults -/

/-- 60_exceptions.md R85: fault entry: a command that faults changes FAULTED and FCAUSE and gives the response (FAULT, c), nothing
else, and the fault is the first one. -/
def Obligations.FaultEntryChangesNothingElse : Prop :=
  ∀ (s t : State) (w : Word) (rest : List HostEvent), s.inputs = .command w :: rest → s.faulted = false →
    step s = .next t → t.faulted = true →
    ∃ c : Cause, t = { s with inputs := rest, faulted := true, fcause := c.code,
                              responses := s.responses ++ [.fault c.code] }

/-- 60_exceptions.md R86: in the fault state `READ_STATUS` works and every other word, legal or illegal, is refused with FCAUSE and
changes nothing. -/
def Obligations.FaultStateRefusesAllButReadStatus : Prop :=
  ∀ (s : State) (w : Word) (rest : List HostEvent), s.CauseInTable → s.faulted = true → s.inputs = .command w :: rest →
    step s = .next { s with
      inputs := rest,
      responses := s.responses ++ [if w = 0x8000 then .status (statusWord s) else .fault s.fcause] }

/-- 93_implementation_defined.md I8: "a model that meets one must `refuse`": every command but `READ_STATUS` in the fault state with
the reserved cause code 7 (log entry 7). -/
def Obligations.ReservedFaultCodeIsRefused : Prop :=
  ∀ (s : State) (i : Instr), s.faulted = true → s.fcause = 7 → i ≠ .readStatus →
    exec i s = .refused .reservedFaultCode

/-- 10_state.md R24, 60_exceptions.md R89, R90: a state once faulted stays so, with its first cause, under every step but a reset. -/
def Obligations.OnlyResetLeavesTheFaultState : Prop :=
  ∀ s t : State, s.faulted = true → step s = .next t →
    (t.faulted = true ∧ t.fcause = s.fcause) ∨
    ∃ pending rest, s.inputs = .reset pending :: rest ∧ t.faulted = false ∧ t.fcause = 0

/-- 60_exceptions.md R84, R87: under the invariants, which fault a running block takes on a command word, and when none. -/
def Obligations.EachFaultHasItsCondition : Prop :=
  ∀ (s t : State) (w : Word) (rest : List HostEvent), s.Inv → s.faulted = false → s.inputs = .command w :: rest →
    step s = .next t →
    (t.fcause = 1 ↔ ∃ e, decode w = .error e) ∧
    (t.fcause = 2 ↔ ((∃ b, decode w = .ok (.pushByte b)) ∨ decode w = .ok .unpack) ∧ s.isOpen = false) ∧
    (t.fcause = 3 ↔ (∃ b, decode w = .ok (.pushByte b)) ∧ s.isOpen = true ∧ s.cnt = 18) ∧
    (t.fcause = 4 ↔ decode w = .ok .unpack ∧ s.isOpen = true ∧ s.cnt.toNat < 18) ∧
    (t.fcause = 5 ↔
      (decode w = .ok .scale ∨ ∃ ch : Byte, decode w = .ok (.readRaw ch) ∧ ch.toNat < 8) ∧ s.sv = false) ∧
    (t.fcause = 6 ↔
      ((∃ ch : Byte, decode w = .ok (.readVolt ch) ∧ ch.toNat < 8) ∨ decode w = .ok .readAllVolt) ∧ s.vv = false) ∧
    (t.faulted = true ↔ t.fcause ≠ 0)

/-- 60_exceptions.md R88: a fault leaves no partial update, and whether and how a command faults depends on control bits only, never
on data values. -/
def Obligations.FaultsDependOnControlBitsOnly : Prop :=
  (∀ (s t : State) (i : Instr), s.faulted = false → exec i s = .next t → t.faulted = true →
    t.buf = s.buf ∧ t.sample = s.sample ∧ t.volt = s.volt) ∧
  ∀ (s s' t t' : State) (i : Instr), s.cnt = s'.cnt → s.isOpen = s'.isOpen → s.sv = s'.sv → s.vv = s'.vv →
    s.faulted = s'.faulted → s.fcause = s'.fcause → exec i s = .next t → exec i s' = .next t' →
    t.faulted = t'.faulted ∧ t.fcause = t'.fcause

/-! ### Whole-machine rules -/

/-- 10_state.md R30: the table of writers: which command may change which element, for every command and every state, and that no
command touches the command port or the parameters. -/
def Obligations.CommandsWriteOnlyTheirElements : Prop :=
  ∀ (s t : State) (i : Instr), exec i s = .next t →
    (t.params = s.params ∧ t.inputs = s.inputs) ∧
    (∀ j : Fin 18, t.buf[j] ≠ s.buf[j] → (∃ b, i = .pushByte b) ∧ j.val = s.cnt.toNat) ∧
    (t.cnt ≠ s.cnt → i = .frameBegin ∨ (∃ b, i = .pushByte b) ∨ i = .unpack) ∧
    (t.isOpen ≠ s.isOpen → i = .frameBegin ∨ i = .unpack) ∧
    (t.sample ≠ s.sample → i = .unpack) ∧ (t.volt ≠ s.volt → i = .scale) ∧
    (t.sv ≠ s.sv → i = .unpack ∧ t.sv = true) ∧ (t.vv ≠ s.vv → i = .scale ∧ t.vv = true) ∧
    (t.vc ≠ s.vc → (i = .unpack ∧ t.vc = false) ∨ (i = .scale ∧ t.vc = true)) ∧
    (t.faulted ≠ s.faulted → s.faulted = false) ∧ (t.fcause ≠ s.fcause → s.faulted = false ∧ t.faulted = true)

/-- 10_state.md R31, 93_implementation_defined.md I5, I6: no command observes an element that holds no value: two states that agree
on everything that holds one step alike, with the same response. It also says that the values log entry 1 chose are never seen. -/
def Obligations.ElementsWithoutValueAreNeverObserved : Prop :=
  ∀ s t : State, s.SameValues t → SameValuesAfter (step s) (step t)
end

