-- ==== Sys2Proof/Laws/Decode.lean ====
section
/-! SUPPORT. A command word and its three fields as numbers (30_encoding.md R47). -/

namespace Sys2Proof

theorem opField_toNat (w : Word) : (opField w).toNat = w.toNat / 4096 := by
  have := w.isLt
  simp [opField, Nat.shiftRight_eq_div_pow]
  omega

theorem rsvField_toNat (w : Word) : (rsvField w).toNat = w.toNat / 256 % 16 := by
  simp [rsvField, Nat.shiftRight_eq_div_pow]

theorem immField_toNat (w : Word) : (immField w).toNat = w.toNat % 256 := by
  simp [immField]

theorem packWord_toNat (op : BitVec 4) (imm : Byte) : (packWord op imm).toNat = op.toNat * 4096 + imm.toNat := by
  have h : (packWord op imm).toNat = (op ++ (0 : BitVec 4)).toNat <<< 8 ||| imm.toNat := BitVec.toNat_append _ _
  have h' : (op ++ (0 : BitVec 4)).toNat = op.toNat <<< 4 ||| 0 := BitVec.toNat_append _ _
  have := imm.isLt
  rw [h, h', Nat.or_zero, ← Nat.shiftLeft_add_eq_or_of_lt imm.isLt, Nat.shiftLeft_eq, Nat.shiftLeft_eq]
  omega

theorem rsvField_packWord (op : BitVec 4) (imm : Byte) : rsvField (packWord op imm) = 0 := by
  apply BitVec.eq_of_toNat_eq
  have := imm.isLt
  rw [rsvField_toNat, packWord_toNat]
  show _ = 0
  omega

theorem opField_packWord (op : BitVec 4) (imm : Byte) : opField (packWord op imm) = op := by
  apply BitVec.eq_of_toNat_eq
  have := imm.isLt
  rw [opField_toNat, packWord_toNat]
  omega

theorem immField_packWord (op : BitVec 4) (imm : Byte) : immField (packWord op imm) = imm := by
  apply BitVec.eq_of_toNat_eq
  have := imm.isLt
  rw [immField_toNat, packWord_toNat]
  omega

/-- A word whose reserved field is 0 is packed from its opcode and its operand. -/
theorem packWord_fields (w : Word) (h : rsvField w = 0) : packWord (opField w) (immField w) = w := by
  apply BitVec.eq_of_toNat_eq
  have hr : (rsvField w).toNat = 0 := congrArg BitVec.toNat h
  rw [rsvField_toNat] at hr
  rw [packWord_toNat, opField_toNat, immField_toNat]
  omega

/-- A word decodes to a command only with `RSV = 0`, with the command's opcode, and with the command's operand. -/
theorem decode_ok {w : Word} {i : Instr} (h : decode w = .ok i) :
    rsvField w = 0 ∧
    ((i = .frameBegin ∧ (opField w).toNat = 1 ∧ immField w = 0) ∨
     (i = .pushByte (immField w) ∧ (opField w).toNat = 2) ∨
     (i = .unpack ∧ (opField w).toNat = 3 ∧ immField w = 0) ∨
     (i = .scale ∧ (opField w).toNat = 4 ∧ immField w = 0) ∨
     (i = .readRaw (immField w) ∧ (opField w).toNat = 5) ∨
     (i = .readVolt (immField w) ∧ (opField w).toNat = 6) ∨
     (i = .readAllVolt ∧ (opField w).toNat = 7 ∧ immField w = 0) ∨
     (i = .readStatus ∧ (opField w).toNat = 8 ∧ immField w = 0)) := by
  have noOperand_ok : ∀ {imm : Byte} {j : Instr}, noOperand imm j = .ok i → i = j ∧ imm = 0 := by
    intro imm j hj
    unfold noOperand at hj
    split at hj
    · injection hj with hj
      exact ⟨hj.symm, ‹_›⟩
    · cases hj
  unfold decode at h
  split at h
  · cases h
  · refine ⟨not_not.mp ‹_›, ?_⟩
    split at h <;> first
      | (injection h with h; subst h; simp_all)
      | cases h
      | (obtain ⟨rfl, hz⟩ := noOperand_ok h; simp_all)

end Sys2Proof
end

