-- ==== Sys2Proof/Laws/Operands.lean ====
section
/-! SUPPORT. What the channel operand selects, and each channel's value in `perChannel`. -/

namespace Sys2Proof.Machine

theorem channelIndex_of_lt {ch : Byte} (h : ch.toNat < 8) : channelIndex ch = some ⟨ch.toNat, h⟩ := by
  unfold channelIndex
  rw [dif_pos h]

theorem channelIndex_of_ge {ch : Byte} (h : 8 ≤ ch.toNat) : channelIndex ch = none := by
  unfold channelIndex
  rw [dif_neg (by omega)]

@[simp] theorem perChannel_getElem {α : Type} (f : Fin 8 → α) (k : Nat) (h : k < 8) : (perChannel f)[k] = f ⟨k, h⟩ := by
  interval_cases k <;> rfl

end Sys2Proof.Machine
end

