-- ==== Sys2Proof/Laws/State.lean ====
section
/-! SUPPORT. What each named update of the state does to each field, one lemma per field per update, true by `rfl`. Cite them (by
`simp` or by name) where two different states are compared: `rfl` there makes the kernel compare all that the states hold. -/

namespace Sys2Proof.Machine

@[simp] theorem State.respond_params (s : State) (r : Response) : (s.respond r).params = s.params := rfl
@[simp] theorem State.respond_buf (s : State) (r : Response) : (s.respond r).buf = s.buf := rfl
@[simp] theorem State.respond_cnt (s : State) (r : Response) : (s.respond r).cnt = s.cnt := rfl
@[simp] theorem State.respond_isOpen (s : State) (r : Response) : (s.respond r).isOpen = s.isOpen := rfl
@[simp] theorem State.respond_sample (s : State) (r : Response) : (s.respond r).sample = s.sample := rfl
@[simp] theorem State.respond_volt (s : State) (r : Response) : (s.respond r).volt = s.volt := rfl
@[simp] theorem State.respond_sv (s : State) (r : Response) : (s.respond r).sv = s.sv := rfl
@[simp] theorem State.respond_vv (s : State) (r : Response) : (s.respond r).vv = s.vv := rfl
@[simp] theorem State.respond_vc (s : State) (r : Response) : (s.respond r).vc = s.vc := rfl
@[simp] theorem State.respond_faulted (s : State) (r : Response) : (s.respond r).faulted = s.faulted := rfl
@[simp] theorem State.respond_fcause (s : State) (r : Response) : (s.respond r).fcause = s.fcause := rfl
@[simp] theorem State.respond_inputs (s : State) (r : Response) : (s.respond r).inputs = s.inputs := rfl
@[simp] theorem State.respond_responses (s : State) (r : Response) : (s.respond r).responses = s.responses ++ [r] := rfl

@[simp] theorem State.takeFault_params (s : State) (c : Cause) : (s.takeFault c).params = s.params := rfl
@[simp] theorem State.takeFault_buf (s : State) (c : Cause) : (s.takeFault c).buf = s.buf := rfl
@[simp] theorem State.takeFault_cnt (s : State) (c : Cause) : (s.takeFault c).cnt = s.cnt := rfl
@[simp] theorem State.takeFault_isOpen (s : State) (c : Cause) : (s.takeFault c).isOpen = s.isOpen := rfl
@[simp] theorem State.takeFault_sample (s : State) (c : Cause) : (s.takeFault c).sample = s.sample := rfl
@[simp] theorem State.takeFault_volt (s : State) (c : Cause) : (s.takeFault c).volt = s.volt := rfl
@[simp] theorem State.takeFault_sv (s : State) (c : Cause) : (s.takeFault c).sv = s.sv := rfl
@[simp] theorem State.takeFault_vv (s : State) (c : Cause) : (s.takeFault c).vv = s.vv := rfl
@[simp] theorem State.takeFault_vc (s : State) (c : Cause) : (s.takeFault c).vc = s.vc := rfl
@[simp] theorem State.takeFault_faulted (s : State) (c : Cause) : (s.takeFault c).faulted = true := rfl
@[simp] theorem State.takeFault_fcause (s : State) (c : Cause) : (s.takeFault c).fcause = c.code := rfl
@[simp] theorem State.takeFault_inputs (s : State) (c : Cause) : (s.takeFault c).inputs = s.inputs := rfl
@[simp] theorem State.takeFault_responses (s : State) (c : Cause) : (s.takeFault c).responses = s.responses ++ [.fault c.code] := rfl

@[simp] theorem State.openFrame_params (s : State) : (s.openFrame).params = s.params := rfl
@[simp] theorem State.openFrame_buf (s : State) : (s.openFrame).buf = s.buf := rfl
@[simp] theorem State.openFrame_cnt (s : State) : (s.openFrame).cnt = 0 := rfl
@[simp] theorem State.openFrame_isOpen (s : State) : (s.openFrame).isOpen = true := rfl
@[simp] theorem State.openFrame_sample (s : State) : (s.openFrame).sample = s.sample := rfl
@[simp] theorem State.openFrame_volt (s : State) : (s.openFrame).volt = s.volt := rfl
@[simp] theorem State.openFrame_sv (s : State) : (s.openFrame).sv = s.sv := rfl
@[simp] theorem State.openFrame_vv (s : State) : (s.openFrame).vv = s.vv := rfl
@[simp] theorem State.openFrame_vc (s : State) : (s.openFrame).vc = s.vc := rfl
@[simp] theorem State.openFrame_faulted (s : State) : (s.openFrame).faulted = s.faulted := rfl
@[simp] theorem State.openFrame_fcause (s : State) : (s.openFrame).fcause = s.fcause := rfl
@[simp] theorem State.openFrame_inputs (s : State) : (s.openFrame).inputs = s.inputs := rfl
@[simp] theorem State.openFrame_responses (s : State) : (s.openFrame).responses = s.responses := rfl

@[simp] theorem State.storeByte_params (s : State) (b : Byte) (h : s.cnt.toNat < 18) : (s.storeByte b h).params = s.params := rfl
@[simp] theorem State.storeByte_buf (s : State) (b : Byte) (h : s.cnt.toNat < 18) : (s.storeByte b h).buf = s.buf.set s.cnt.toNat b h := rfl
@[simp] theorem State.storeByte_cnt (s : State) (b : Byte) (h : s.cnt.toNat < 18) : (s.storeByte b h).cnt = s.cnt + 1 := rfl
@[simp] theorem State.storeByte_isOpen (s : State) (b : Byte) (h : s.cnt.toNat < 18) : (s.storeByte b h).isOpen = s.isOpen := rfl
@[simp] theorem State.storeByte_sample (s : State) (b : Byte) (h : s.cnt.toNat < 18) : (s.storeByte b h).sample = s.sample := rfl
@[simp] theorem State.storeByte_volt (s : State) (b : Byte) (h : s.cnt.toNat < 18) : (s.storeByte b h).volt = s.volt := rfl
@[simp] theorem State.storeByte_sv (s : State) (b : Byte) (h : s.cnt.toNat < 18) : (s.storeByte b h).sv = s.sv := rfl
@[simp] theorem State.storeByte_vv (s : State) (b : Byte) (h : s.cnt.toNat < 18) : (s.storeByte b h).vv = s.vv := rfl
@[simp] theorem State.storeByte_vc (s : State) (b : Byte) (h : s.cnt.toNat < 18) : (s.storeByte b h).vc = s.vc := rfl
@[simp] theorem State.storeByte_faulted (s : State) (b : Byte) (h : s.cnt.toNat < 18) : (s.storeByte b h).faulted = s.faulted := rfl
@[simp] theorem State.storeByte_fcause (s : State) (b : Byte) (h : s.cnt.toNat < 18) : (s.storeByte b h).fcause = s.fcause := rfl
@[simp] theorem State.storeByte_inputs (s : State) (b : Byte) (h : s.cnt.toNat < 18) : (s.storeByte b h).inputs = s.inputs := rfl
@[simp] theorem State.storeByte_responses (s : State) (b : Byte) (h : s.cnt.toNat < 18) : (s.storeByte b h).responses = s.responses := rfl

@[simp] theorem State.writeSamples_params (s : State) (v : Vector (BitVec 18) 8) : (s.writeSamples v).params = s.params := rfl
@[simp] theorem State.writeSamples_buf (s : State) (v : Vector (BitVec 18) 8) : (s.writeSamples v).buf = s.buf := rfl
@[simp] theorem State.writeSamples_cnt (s : State) (v : Vector (BitVec 18) 8) : (s.writeSamples v).cnt = s.cnt := rfl
@[simp] theorem State.writeSamples_isOpen (s : State) (v : Vector (BitVec 18) 8) : (s.writeSamples v).isOpen = s.isOpen := rfl
@[simp] theorem State.writeSamples_sample (s : State) (v : Vector (BitVec 18) 8) : (s.writeSamples v).sample = v := rfl
@[simp] theorem State.writeSamples_volt (s : State) (v : Vector (BitVec 18) 8) : (s.writeSamples v).volt = s.volt := rfl
@[simp] theorem State.writeSamples_sv (s : State) (v : Vector (BitVec 18) 8) : (s.writeSamples v).sv = s.sv := rfl
@[simp] theorem State.writeSamples_vv (s : State) (v : Vector (BitVec 18) 8) : (s.writeSamples v).vv = s.vv := rfl
@[simp] theorem State.writeSamples_vc (s : State) (v : Vector (BitVec 18) 8) : (s.writeSamples v).vc = s.vc := rfl
@[simp] theorem State.writeSamples_faulted (s : State) (v : Vector (BitVec 18) 8) : (s.writeSamples v).faulted = s.faulted := rfl
@[simp] theorem State.writeSamples_fcause (s : State) (v : Vector (BitVec 18) 8) : (s.writeSamples v).fcause = s.fcause := rfl
@[simp] theorem State.writeSamples_inputs (s : State) (v : Vector (BitVec 18) 8) : (s.writeSamples v).inputs = s.inputs := rfl
@[simp] theorem State.writeSamples_responses (s : State) (v : Vector (BitVec 18) 8) : (s.writeSamples v).responses = s.responses := rfl

@[simp] theorem State.writeVolts_params (s : State) (v : Vector Voltage 8) : (s.writeVolts v).params = s.params := rfl
@[simp] theorem State.writeVolts_buf (s : State) (v : Vector Voltage 8) : (s.writeVolts v).buf = s.buf := rfl
@[simp] theorem State.writeVolts_cnt (s : State) (v : Vector Voltage 8) : (s.writeVolts v).cnt = s.cnt := rfl
@[simp] theorem State.writeVolts_isOpen (s : State) (v : Vector Voltage 8) : (s.writeVolts v).isOpen = s.isOpen := rfl
@[simp] theorem State.writeVolts_sample (s : State) (v : Vector Voltage 8) : (s.writeVolts v).sample = s.sample := rfl
@[simp] theorem State.writeVolts_volt (s : State) (v : Vector Voltage 8) : (s.writeVolts v).volt = v := rfl
@[simp] theorem State.writeVolts_sv (s : State) (v : Vector Voltage 8) : (s.writeVolts v).sv = s.sv := rfl
@[simp] theorem State.writeVolts_vv (s : State) (v : Vector Voltage 8) : (s.writeVolts v).vv = s.vv := rfl
@[simp] theorem State.writeVolts_vc (s : State) (v : Vector Voltage 8) : (s.writeVolts v).vc = s.vc := rfl
@[simp] theorem State.writeVolts_faulted (s : State) (v : Vector Voltage 8) : (s.writeVolts v).faulted = s.faulted := rfl
@[simp] theorem State.writeVolts_fcause (s : State) (v : Vector Voltage 8) : (s.writeVolts v).fcause = s.fcause := rfl
@[simp] theorem State.writeVolts_inputs (s : State) (v : Vector Voltage 8) : (s.writeVolts v).inputs = s.inputs := rfl
@[simp] theorem State.writeVolts_responses (s : State) (v : Vector Voltage 8) : (s.writeVolts v).responses = s.responses := rfl

@[simp] theorem State.markUnpacked_params (s : State) : (s.markUnpacked).params = s.params := rfl
@[simp] theorem State.markUnpacked_buf (s : State) : (s.markUnpacked).buf = s.buf := rfl
@[simp] theorem State.markUnpacked_cnt (s : State) : (s.markUnpacked).cnt = 0 := rfl
@[simp] theorem State.markUnpacked_isOpen (s : State) : (s.markUnpacked).isOpen = false := rfl
@[simp] theorem State.markUnpacked_sample (s : State) : (s.markUnpacked).sample = s.sample := rfl
@[simp] theorem State.markUnpacked_volt (s : State) : (s.markUnpacked).volt = s.volt := rfl
@[simp] theorem State.markUnpacked_sv (s : State) : (s.markUnpacked).sv = true := rfl
@[simp] theorem State.markUnpacked_vv (s : State) : (s.markUnpacked).vv = s.vv := rfl
@[simp] theorem State.markUnpacked_vc (s : State) : (s.markUnpacked).vc = false := rfl
@[simp] theorem State.markUnpacked_faulted (s : State) : (s.markUnpacked).faulted = s.faulted := rfl
@[simp] theorem State.markUnpacked_fcause (s : State) : (s.markUnpacked).fcause = s.fcause := rfl
@[simp] theorem State.markUnpacked_inputs (s : State) : (s.markUnpacked).inputs = s.inputs := rfl
@[simp] theorem State.markUnpacked_responses (s : State) : (s.markUnpacked).responses = s.responses := rfl

@[simp] theorem State.markScaled_params (s : State) : (s.markScaled).params = s.params := rfl
@[simp] theorem State.markScaled_buf (s : State) : (s.markScaled).buf = s.buf := rfl
@[simp] theorem State.markScaled_cnt (s : State) : (s.markScaled).cnt = s.cnt := rfl
@[simp] theorem State.markScaled_isOpen (s : State) : (s.markScaled).isOpen = s.isOpen := rfl
@[simp] theorem State.markScaled_sample (s : State) : (s.markScaled).sample = s.sample := rfl
@[simp] theorem State.markScaled_volt (s : State) : (s.markScaled).volt = s.volt := rfl
@[simp] theorem State.markScaled_sv (s : State) : (s.markScaled).sv = s.sv := rfl
@[simp] theorem State.markScaled_vv (s : State) : (s.markScaled).vv = true := rfl
@[simp] theorem State.markScaled_vc (s : State) : (s.markScaled).vc = true := rfl
@[simp] theorem State.markScaled_faulted (s : State) : (s.markScaled).faulted = s.faulted := rfl
@[simp] theorem State.markScaled_fcause (s : State) : (s.markScaled).fcause = s.fcause := rfl
@[simp] theorem State.markScaled_inputs (s : State) : (s.markScaled).inputs = s.inputs := rfl
@[simp] theorem State.markScaled_responses (s : State) : (s.markScaled).responses = s.responses := rfl

@[simp] theorem State.takeReset_params (s : State) : (s.takeReset).params = s.params := rfl
@[simp] theorem State.takeReset_buf (s : State) : (s.takeReset).buf = Vector.replicate 18 0 := rfl
@[simp] theorem State.takeReset_cnt (s : State) : (s.takeReset).cnt = 0 := rfl
@[simp] theorem State.takeReset_isOpen (s : State) : (s.takeReset).isOpen = false := rfl
@[simp] theorem State.takeReset_sample (s : State) : (s.takeReset).sample = Vector.replicate 8 0 := rfl
@[simp] theorem State.takeReset_volt (s : State) : (s.takeReset).volt = Vector.replicate 8 (Voltage.zero s.params.voltageFormat) := rfl
@[simp] theorem State.takeReset_sv (s : State) : (s.takeReset).sv = s.params.zeroInit := rfl
@[simp] theorem State.takeReset_vv (s : State) : (s.takeReset).vv = s.params.zeroInit := rfl
@[simp] theorem State.takeReset_vc (s : State) : (s.takeReset).vc = s.params.zeroInit := rfl
@[simp] theorem State.takeReset_faulted (s : State) : (s.takeReset).faulted = false := rfl
@[simp] theorem State.takeReset_fcause (s : State) : (s.takeReset).fcause = 0 := rfl
@[simp] theorem State.takeReset_inputs (s : State) : (s.takeReset).inputs = s.inputs := rfl
@[simp] theorem State.takeReset_responses (s : State) : (s.takeReset).responses = s.responses := rfl

end Sys2Proof.Machine
end

