-- ==== Sys2Proof/Laws/Ops.lean ====
section
/-! SUPPORT. What each shared operation can answer, said once, and for each meaning every way in which it answers a next state. -/

namespace Sys2Proof.Machine

/-! ### The shared operations -/

theorem ifRunning_running {s : State} (h : s.faulted = false) (body : State → StepResult) :
    ifRunning s body = body s := by
  simp [ifRunning, h]

theorem ifRunning_faulted {s : State} (h : s.faulted = true) (body : State → StepResult) :
    ifRunning s body = refuseCommand s := by
  simp [ifRunning, h]

theorem refuseCommand_of_ne {s : State} (h : s.fcause ≠ 7) :
    refuseCommand s = .next (s.respond (.fault s.fcause)) :=
  if_neg h

theorem refuseCommand_next {s t : State} (h : refuseCommand s = .next t) :
    s.fcause ≠ 7 ∧ t = s.respond (.fault s.fcause) := by
  unfold refuseCommand at h
  split at h
  · cases h
  · exact ⟨‹_›, by injection h with h; exact h.symm⟩

/-- A guarded command answers a next state either refused in the fault state or by its own body. -/
theorem ifRunning_next {s t : State} {body : State → StepResult} (h : ifRunning s body = .next t) :
    (s.faulted = true ∧ s.fcause ≠ 7 ∧ t = s.respond (.fault s.fcause)) ∨ (s.faulted = false ∧ body s = .next t) := by
  unfold ifRunning at h
  split at h
  · exact .inl ⟨‹_›, refuseCommand_next h⟩
  · exact .inr ⟨Bool.eq_false_iff.mpr ‹_›, h⟩

@[simp] theorem raiseFault_eq (c : Cause) (s : State) : raiseFault c s = .next (s.takeFault c) := rfl

/-- A cause code is never 0 and never 7 (60_exceptions.md R84). -/
theorem Cause.code_ne (c : Cause) : c.code ≠ 0 ∧ c.code ≠ 7 := by
  cases c <;> decide

theorem acceptEvent_nil {s : State} (h : s.inputs = []) : acceptEvent s = none := by
  simp [acceptEvent, h]

theorem acceptEvent_cons {s : State} {e : HostEvent} {rest : List HostEvent} (h : s.inputs = e :: rest) :
    acceptEvent s = some (e, { s with inputs := rest }) := by
  simp [acceptEvent, h]

/-! ### The meanings -/

/-- `FRAME_BEGIN` answers a next state in the fault state or by opening a frame. -/
theorem execFrameBegin_next {s t : State} (h : execFrameBegin s = .next t) :
    (s.faulted = true ∧ s.fcause ≠ 7 ∧ t = s.respond (.fault s.fcause)) ∨
    (s.faulted = false ∧ t = s.openFrame.respond .none) := by
  rcases ifRunning_next h with h | ⟨hf, h⟩
  · exact .inl h
  · injection h with h
    exact .inr ⟨hf, h.symm⟩

theorem execPushByte_next {b : Byte} {s t : State} (h : execPushByte b s = .next t) :
    (s.faulted = true ∧ s.fcause ≠ 7 ∧ t = s.respond (.fault s.fcause)) ∨
    (s.faulted = false ∧ s.isOpen = false ∧ t = s.takeFault .noFrame) ∨
    (s.faulted = false ∧ s.isOpen = true ∧ s.cnt = 18 ∧ t = s.takeFault .frameOverrun) ∨
    (s.faulted = false ∧ s.isOpen = true ∧ ∃ hc : s.cnt.toNat < 18, t = (s.storeByte b hc).respond .none) := by
  rcases ifRunning_next h with h | ⟨hf, h⟩
  · exact .inl h
  · cases ho : s.isOpen <;> simp only [ho, reduceCtorEq, ↓reduceIte, raiseFault_eq] at h
    · injection h with h
      exact .inr (.inl ⟨hf, rfl, h.symm⟩)
    · split at h
      · injection h with h
        exact .inr (.inr (.inl ⟨hf, rfl, ‹_›, h.symm⟩))
      · split at h
        · injection h with h
          exact .inr (.inr (.inr ⟨hf, rfl, ‹_›, h.symm⟩))
        · cases h

theorem execUnpack_next {s t : State} (h : execUnpack s = .next t) :
    (s.faulted = true ∧ s.fcause ≠ 7 ∧ t = s.respond (.fault s.fcause)) ∨
    (s.faulted = false ∧ s.isOpen = false ∧ t = s.takeFault .noFrame) ∨
    (s.faulted = false ∧ s.isOpen = true ∧ s.cnt.toNat < 18 ∧ t = s.takeFault .frameIncomplete) ∨
    (s.faulted = false ∧ s.isOpen = true ∧ 18 ≤ s.cnt.toNat ∧
      t = ((s.writeSamples (unpackedSamples s.buf)).markUnpacked).respond .none) := by
  rcases ifRunning_next h with h | ⟨hf, h⟩
  · exact .inl h
  · cases ho : s.isOpen <;> simp only [ho, reduceCtorEq, ↓reduceIte, raiseFault_eq] at h
    · injection h with h
      exact .inr (.inl ⟨hf, rfl, h.symm⟩)
    · split at h <;> injection h with h
      · exact .inr (.inr (.inl ⟨hf, rfl, ‹_›, h.symm⟩))
      · exact .inr (.inr (.inr ⟨hf, rfl, by omega, h.symm⟩))

theorem execScale_next {s t : State} (h : execScale s = .next t) :
    (s.faulted = true ∧ s.fcause ≠ 7 ∧ t = s.respond (.fault s.fcause)) ∨
    (s.faulted = false ∧ s.sv = false ∧ t = s.takeFault .uninitSample) ∨
    (s.faulted = false ∧ s.sv = true ∧
      t = ((s.writeVolts (scaledVolts s.params.voltageFormat s.sample)).markScaled).respond .none) := by
  rcases ifRunning_next h with h | ⟨hf, h⟩
  · exact .inl h
  · cases hv : s.sv <;> simp only [hv, reduceCtorEq, ↓reduceIte, raiseFault_eq] at h <;> injection h with h
    · exact .inr (.inl ⟨hf, rfl, h.symm⟩)
    · exact .inr (.inr ⟨hf, rfl, h.symm⟩)

theorem execReadRaw_next {ch : Byte} {s t : State} (h : execReadRaw ch s = .next t) :
    (s.faulted = true ∧ s.fcause ≠ 7 ∧ t = s.respond (.fault s.fcause)) ∨
    (s.faulted = false ∧ 8 ≤ ch.toNat ∧ t = s.respond (.raw 0)) ∨
    (s.faulted = false ∧ ch.toNat < 8 ∧ s.sv = false ∧ t = s.takeFault .uninitSample) ∨
    (s.faulted = false ∧ s.sv = true ∧ ∃ hc : ch.toNat < 8, t = s.respond (.raw (rawValue s.sample[ch.toNat]))) := by
  rcases ifRunning_next h with h | ⟨hf, h⟩
  · exact .inl h
  · by_cases hc : ch.toNat < 8
    · rw [channelIndex_of_lt hc] at h
      cases hv : s.sv <;> simp only [hv, reduceCtorEq, ↓reduceIte, raiseFault_eq] at h <;> injection h with h
      · exact .inr (.inr (.inl ⟨hf, hc, rfl, h.symm⟩))
      · exact .inr (.inr (.inr ⟨hf, rfl, hc, h.symm⟩))
    · rw [channelIndex_of_ge (by omega)] at h
      injection h with h
      exact .inr (.inl ⟨hf, by omega, h.symm⟩)

theorem execReadVolt_next {ch : Byte} {s t : State} (h : execReadVolt ch s = .next t) :
    (s.faulted = true ∧ s.fcause ≠ 7 ∧ t = s.respond (.fault s.fcause)) ∨
    (s.faulted = false ∧ 8 ≤ ch.toNat ∧ t = s.respond (.volt (Voltage.zero s.params.voltageFormat))) ∨
    (s.faulted = false ∧ ch.toNat < 8 ∧ s.vv = false ∧ t = s.takeFault .uninitVolt) ∨
    (s.faulted = false ∧ s.vv = true ∧ ∃ hc : ch.toNat < 8, t = s.respond (.volt s.volt[ch.toNat])) := by
  rcases ifRunning_next h with h | ⟨hf, h⟩
  · exact .inl h
  · by_cases hc : ch.toNat < 8
    · rw [channelIndex_of_lt hc] at h
      cases hv : s.vv <;> simp only [hv, reduceCtorEq, ↓reduceIte, raiseFault_eq] at h <;> injection h with h
      · exact .inr (.inr (.inl ⟨hf, hc, rfl, h.symm⟩))
      · exact .inr (.inr (.inr ⟨hf, rfl, hc, h.symm⟩))
    · rw [channelIndex_of_ge (by omega)] at h
      injection h with h
      exact .inr (.inl ⟨hf, by omega, h.symm⟩)

theorem execReadAllVolt_next {s t : State} (h : execReadAllVolt s = .next t) :
    (s.faulted = true ∧ s.fcause ≠ 7 ∧ t = s.respond (.fault s.fcause)) ∨
    (s.faulted = false ∧ s.vv = false ∧ t = s.takeFault .uninitVolt) ∨
    (s.faulted = false ∧ s.vv = true ∧ t = s.respond (.volts s.volt)) := by
  rcases ifRunning_next h with h | ⟨hf, h⟩
  · exact .inl h
  · cases hv : s.vv <;> simp only [hv, reduceCtorEq, ↓reduceIte, raiseFault_eq] at h <;> injection h with h
    · exact .inr (.inl ⟨hf, rfl, h.symm⟩)
    · exact .inr (.inr ⟨hf, rfl, h.symm⟩)

theorem execReadStatus_next {s t : State} (h : execReadStatus s = .next t) :
    t = s.respond (.status (statusWord s)) := by
  injection h with h
  exact h.symm

theorem illegalCommand_next {s t : State} (h : illegalCommand s = .next t) :
    (s.faulted = true ∧ s.fcause ≠ 7 ∧ t = s.respond (.fault s.fcause)) ∨
    (s.faulted = false ∧ t = s.takeFault .illegalCmd) := by
  rcases ifRunning_next h with h | ⟨hf, h⟩
  · exact .inl h
  · injection h with h
    exact .inr ⟨hf, h.symm⟩

/-! ### The step -/

/-- Everything a step that answers a next state can have done: nothing, a reset, a decoded command, or an illegal word. -/
theorem step_next {s t : State} (h : step s = .next t) :
    (s.inputs = [] ∧ t = s) ∨
    (∃ p rest, s.inputs = .reset p :: rest ∧ t = State.takeReset { s with inputs := rest }) ∨
    (∃ w rest i, s.inputs = .command w :: rest ∧ decode w = .ok i ∧ exec i { s with inputs := rest } = .next t) ∨
    (∃ w rest e, s.inputs = .command w :: rest ∧ decode w = .error e ∧
      illegalCommand { s with inputs := rest } = .next t) := by
  unfold step at h
  cases hi : s.inputs with
  | nil =>
    rw [acceptEvent_nil hi] at h
    injection h with h
    exact .inl ⟨rfl, h.symm⟩
  | cons e rest =>
    rw [acceptEvent_cons hi] at h
    cases e with
    | reset p =>
      injection h with h
      exact .inr (.inl ⟨p, rest, rfl, h.symm⟩)
    | command w =>
      simp only at h
      split at h
      · exact .inr (.inr (.inl ⟨w, rest, _, rfl, ‹_›, h⟩))
      · exact .inr (.inr (.inr ⟨w, rest, _, rfl, ‹_›, h⟩))

end Sys2Proof.Machine
end

