-- ==== Sys2Proof/Laws/Exec.lean ====
section
/-! SUPPORT. Everything a command can do, said once: `exec_next` is the case split that claims over all commands start from. -/

namespace Sys2Proof.Machine

/-- The condition under which a running block takes the fault `c` on the command `i` (60_exceptions.md R84). -/
def FaultCondition (s : State) (i : Instr) : Cause → Prop
  | .illegalCmd => False
  | .noFrame => s.isOpen = false ∧ ((∃ b, i = .pushByte b) ∨ i = .unpack)
  | .frameOverrun => s.isOpen = true ∧ s.cnt = 18 ∧ ∃ b, i = .pushByte b
  | .frameIncomplete => s.isOpen = true ∧ s.cnt.toNat < 18 ∧ i = .unpack
  | .uninitSample => s.sv = false ∧ (i = .scale ∨ ∃ ch : Byte, ch.toNat < 8 ∧ i = .readRaw ch)
  | .uninitVolt => s.vv = false ∧ (i = .readAllVolt ∨ ∃ ch : Byte, ch.toNat < 8 ∧ i = .readVolt ch)

/-- What a command does to a running block when it takes no fault. -/
inductive Completes (s : State) : Instr → State → Prop
  | frameBegin : Completes s .frameBegin (s.openFrame.respond .none)
  | pushByte (b : Byte) (h : s.cnt.toNat < 18) (ho : s.isOpen = true) :
      Completes s (.pushByte b) ((s.storeByte b h).respond .none)
  | unpack (ho : s.isOpen = true) (h : 18 ≤ s.cnt.toNat) :
      Completes s .unpack (((s.writeSamples (unpackedSamples s.buf)).markUnpacked).respond .none)
  | scale (h : s.sv = true) :
      Completes s .scale (((s.writeVolts (scaledVolts s.params.voltageFormat s.sample)).markScaled).respond .none)
  | rawSentinel (ch : Byte) (h : 8 ≤ ch.toNat) : Completes s (.readRaw ch) (s.respond (.raw 0))
  | raw (ch : Byte) (h : ch.toNat < 8) (hs : s.sv = true) :
      Completes s (.readRaw ch) (s.respond (.raw (rawValue s.sample[ch.toNat])))
  | voltSentinel (ch : Byte) (h : 8 ≤ ch.toNat) :
      Completes s (.readVolt ch) (s.respond (.volt (Voltage.zero s.params.voltageFormat)))
  | volt (ch : Byte) (h : ch.toNat < 8) (hv : s.vv = true) :
      Completes s (.readVolt ch) (s.respond (.volt s.volt[ch.toNat]))
  | volts (hv : s.vv = true) : Completes s .readAllVolt (s.respond (.volts s.volt))

/-- Every way a command answers a next state: refused in the fault state, `READ_STATUS`, a fault entry, or its effect. -/
theorem exec_next {i : Instr} {s t : State} (h : exec i s = .next t) :
    (i ≠ .readStatus ∧ s.faulted = true ∧ s.fcause ≠ 7 ∧ t = s.respond (.fault s.fcause)) ∨
    (i = .readStatus ∧ t = s.respond (.status (statusWord s))) ∨
    (s.faulted = false ∧ ∃ c, FaultCondition s i c ∧ t = s.takeFault c) ∨
    (s.faulted = false ∧ Completes s i t) := by
  cases i with
  | frameBegin =>
    rcases execFrameBegin_next h with h | ⟨hf, rfl⟩
    · exact .inl ⟨by simp, h⟩
    · exact .inr (.inr (.inr ⟨hf, .frameBegin⟩))
  | pushByte b =>
    rcases execPushByte_next h with h | ⟨hf, ho, rfl⟩ | ⟨hf, ho, hc, rfl⟩ | ⟨hf, ho, hc, rfl⟩
    · exact .inl ⟨by simp, h⟩
    · exact .inr (.inr (.inl ⟨hf, .noFrame, ⟨ho, .inl ⟨b, rfl⟩⟩, rfl⟩))
    · exact .inr (.inr (.inl ⟨hf, .frameOverrun, ⟨ho, hc, b, rfl⟩, rfl⟩))
    · exact .inr (.inr (.inr ⟨hf, .pushByte b hc ho⟩))
  | unpack =>
    rcases execUnpack_next h with h | ⟨hf, ho, rfl⟩ | ⟨hf, ho, hc, rfl⟩ | ⟨hf, ho, hc, rfl⟩
    · exact .inl ⟨by simp, h⟩
    · exact .inr (.inr (.inl ⟨hf, .noFrame, ⟨ho, .inr rfl⟩, rfl⟩))
    · exact .inr (.inr (.inl ⟨hf, .frameIncomplete, ⟨ho, hc, rfl⟩, rfl⟩))
    · exact .inr (.inr (.inr ⟨hf, .unpack ho hc⟩))
  | scale =>
    rcases execScale_next h with h | ⟨hf, hv, rfl⟩ | ⟨hf, hv, rfl⟩
    · exact .inl ⟨by simp, h⟩
    · exact .inr (.inr (.inl ⟨hf, .uninitSample, ⟨hv, .inl rfl⟩, rfl⟩))
    · exact .inr (.inr (.inr ⟨hf, .scale hv⟩))
  | readRaw ch =>
    rcases execReadRaw_next h with h | ⟨hf, hc, rfl⟩ | ⟨hf, hc, hv, rfl⟩ | ⟨hf, hv, hc, rfl⟩
    · exact .inl ⟨by simp, h⟩
    · exact .inr (.inr (.inr ⟨hf, .rawSentinel ch hc⟩))
    · exact .inr (.inr (.inl ⟨hf, .uninitSample, ⟨hv, .inr ⟨ch, hc, rfl⟩⟩, rfl⟩))
    · exact .inr (.inr (.inr ⟨hf, .raw ch hc hv⟩))
  | readVolt ch =>
    rcases execReadVolt_next h with h | ⟨hf, hc, rfl⟩ | ⟨hf, hc, hv, rfl⟩ | ⟨hf, hv, hc, rfl⟩
    · exact .inl ⟨by simp, h⟩
    · exact .inr (.inr (.inr ⟨hf, .voltSentinel ch hc⟩))
    · exact .inr (.inr (.inl ⟨hf, .uninitVolt, ⟨hv, .inr ⟨ch, hc, rfl⟩⟩, rfl⟩))
    · exact .inr (.inr (.inr ⟨hf, .volt ch hc hv⟩))
  | readAllVolt =>
    rcases execReadAllVolt_next h with h | ⟨hf, hv, rfl⟩ | ⟨hf, hv, rfl⟩
    · exact .inl ⟨by simp, h⟩
    · exact .inr (.inr (.inl ⟨hf, .uninitVolt, ⟨hv, .inl rfl⟩, rfl⟩))
    · exact .inr (.inr (.inr ⟨hf, .volts hv⟩))
  | readStatus => exact .inr (.inl ⟨rfl, execReadStatus_next h⟩)

end Sys2Proof.Machine
end

