-- ==== Sys2Proof/Laws/Float.lean ====
section
/-! SUPPORT. What the parts of `RNE_F` answer (00_scope.md R10): the nearest integer, the binary logarithm, and the packing of a
value's sign and pattern. -/

namespace Sys2Proof.Machine

/-- `divNearestEven n d` is within one half of `n / d`. -/
theorem divNearestEven_near (n : Nat) {d : Nat} (hd : 0 < d) :
    2 * (d * divNearestEven n d) ≤ 2 * n + d ∧ 2 * n ≤ 2 * (d * divNearestEven n d) + d := by
  have h := Nat.div_add_mod n d
  have hlt := Nat.mod_lt n hd
  unfold divNearestEven
  split
  · omega
  · split
    · rw [Nat.mul_add]; omega
    · rcases Nat.mod_two_eq_zero_or_one (n / d) with h0 | h1
      · rw [h0, Nat.add_zero]; omega
      · rw [h1, Nat.mul_add]; omega

/-- Where `n / d` lies midway between two integers, `divNearestEven n d` is the even one. -/
theorem divNearestEven_tie (n : Nat) {d : Nat} (h : 2 * (n % d) = d) : divNearestEven n d % 2 = 0 := by
  unfold divNearestEven
  rw [if_neg (by omega), if_neg (by omega)]
  omega

/-- A quotient that is exact is not rounded. -/
theorem divNearestEven_exact (m : Nat) {d : Nat} (hd : 0 < d) : divNearestEven (m * d) d = m := by
  unfold divNearestEven
  rw [Nat.mul_mod_left, Nat.mul_div_cancel m hd, if_pos (by omega)]

/-- `floorLog2 n d` is the greatest e with `2^e <= n / d`. -/
theorem floorLog2_spec {n d : Nat} (hn : 0 < n) (hd : 0 < d) :
    d * 2 ^ (floorLog2 n d).toNat ≤ n * 2 ^ (-floorLog2 n d).toNat ∧
    n * 2 ^ (-(floorLog2 n d + 1)).toNat < d * 2 ^ (floorLog2 n d + 1).toNat := by
  have hn1 : 2 ^ n.log2 ≤ n := Nat.log2_self_le (by omega)
  have hn2 : n < 2 ^ (n.log2 + 1) := Nat.lt_log2_self
  have hd1 : 2 ^ d.log2 ≤ d := Nat.log2_self_le (by omega)
  have hd2 : d < 2 ^ (d.log2 + 1) := Nat.lt_log2_self
  -- scaled by the difference of the logarithms, n and d lie within a factor of two of each other
  have upper : n * 2 ^ (-((n.log2 : Int) - d.log2 + 1)).toNat < d * 2 ^ ((n.log2 : Int) - d.log2 + 1).toNat := by
    calc n * 2 ^ (-((n.log2 : Int) - d.log2 + 1)).toNat
        < 2 ^ (n.log2 + 1) * 2 ^ (-((n.log2 : Int) - d.log2 + 1)).toNat :=
          Nat.mul_lt_mul_of_pos_right hn2 (by positivity)
      _ = 2 ^ d.log2 * 2 ^ ((n.log2 : Int) - d.log2 + 1).toNat := by
          rw [← pow_add, ← pow_add]
          congr 1
          omega
      _ ≤ d * 2 ^ ((n.log2 : Int) - d.log2 + 1).toNat := Nat.mul_le_mul_right _ hd1
  have lower : d * 2 ^ ((n.log2 : Int) - d.log2 - 1).toNat ≤ n * 2 ^ (-((n.log2 : Int) - d.log2 - 1)).toNat := by
    calc d * 2 ^ ((n.log2 : Int) - d.log2 - 1).toNat
        ≤ 2 ^ (d.log2 + 1) * 2 ^ ((n.log2 : Int) - d.log2 - 1).toNat := Nat.mul_le_mul_right _ hd2.le
      _ = 2 ^ n.log2 * 2 ^ (-((n.log2 : Int) - d.log2 - 1)).toNat := by
          rw [← pow_add, ← pow_add]
          congr 1
          omega
      _ ≤ n * 2 ^ (-((n.log2 : Int) - d.log2 - 1)).toNat := Nat.mul_le_mul_right _ hn1
  unfold floorLog2
  simp only
  split
  · exact ⟨‹_›, upper⟩
  · refine ⟨lower, ?_⟩
    rw [sub_add_cancel]
    omega

@[simp] theorem format_ofPattern (F : VoltageFormat) (b : Bool) (m : Nat) : (Voltage.ofPattern F b m).format = F := by
  cases F <;> rfl

theorem format_rne (F : VoltageFormat) (x : Rat) : (rne F x).format = F := format_ofPattern _ _ _

theorem format_scaleV (F : VoltageFormat) (s : Int) : (scaleV F s).format = F := by
  unfold scaleV divideRounded
  split <;> exact format_rne _ _

@[simp] theorem negative_ofPattern (F : VoltageFormat) (b : Bool) (m : Nat) :
    (Voltage.ofPattern F b m).negative = b := by
  cases F with
  | binary32 =>
    show (BitVec.ofBool b ++ BitVec.ofNat 31 m).msb = b
    rw [BitVec.msb_append]
    cases b <;> rfl
  | binary64 =>
    show (BitVec.ofBool b ++ BitVec.ofNat 63 m).msb = b
    rw [BitVec.msb_append]
    cases b <;> rfl

theorem pattern_ofPattern (F : VoltageFormat) (b : Bool) {m : Nat} (h : m < 2 ^ magnitudeBits F) :
    (Voltage.ofPattern F b m).pattern = m := by
  cases F with
  | binary32 =>
    have hm : m < 2 ^ 31 := h
    have := Bool.toNat_lt b
    have e : (BitVec.ofBool b ++ BitVec.ofNat 31 m).toNat = b.toNat * 2 ^ 31 + m := by
      rw [BitVec.toNat_append, BitVec.toNat_ofBool, BitVec.toNat_ofNat, Nat.mod_eq_of_lt hm,
        ← Nat.shiftLeft_add_eq_or_of_lt hm, Nat.shiftLeft_eq]
    show (BitVec.ofBool b ++ BitVec.ofNat 31 m).toNat % 2 ^ 31 = m
    rw [e]
    omega
  | binary64 =>
    have hm : m < 2 ^ 63 := h
    have := Bool.toNat_lt b
    have e : (BitVec.ofBool b ++ BitVec.ofNat 63 m).toNat = b.toNat * 2 ^ 63 + m := by
      rw [BitVec.toNat_append, BitVec.toNat_ofBool, BitVec.toNat_ofNat, Nat.mod_eq_of_lt hm,
        ← Nat.shiftLeft_add_eq_or_of_lt hm, Nat.shiftLeft_eq]
    show (BitVec.ofBool b ++ BitVec.ofNat 63 m).toNat % 2 ^ 63 = m
    rw [e]
    omega

/-- A magnitude pattern never passes the pattern of infinity. -/
theorem magnitudePattern_le (F : VoltageFormat) (n d : Nat) : magnitudePattern F n d ≤ infinityPattern F := by
  unfold magnitudePattern
  split
  · exact Nat.zero_le _
  · exact Nat.min_le_left _ _

/-- The pattern of `RNE_F(x)` is the magnitude pattern of x. -/
theorem pattern_rne (F : VoltageFormat) (x : Rat) : (rne F x).pattern = magnitudePattern F x.num.natAbs x.den := by
  apply pattern_ofPattern
  refine lt_of_le_of_lt (magnitudePattern_le F _ _) ?_
  cases F <;> decide

theorem negative_rne (F : VoltageFormat) (x : Rat) : (rne F x).negative = decide (x.num < 0) := negative_ofPattern _ _ _

/-- What a pattern made from a step `2^q` and a multiple m of it stands for: `m * 2^q`, for a normal value (m has the format's full
precision, or carries one binade up) and for a subnormal one (q is the least exponent). -/
theorem patternValue_eq (F : VoltageFormat) {q : Int} {m : Nat} (hq : leastExponent F ≤ q) (hm : m ≤ 2 ^ precision F)
    (hn : q = leastExponent F ∨ 2 ^ (precision F - 1) ≤ m) :
    patternValue F ((q - leastExponent F).toNat * 2 ^ (precision F - 1) + m) = (m : Rat) * 2 ^ q := by
  have hp : 2 ^ precision F = 2 * 2 ^ (precision F - 1) := by
    rw [← pow_succ']
    cases F <;> rfl
  have hpos : 0 < 2 ^ (precision F - 1) := by positivity
  have key : ∀ (k : Nat) (e : Int), mkRat ((k * 2 ^ e.toNat : Nat) : Int) (2 ^ (-e).toNat) = (k : Rat) * 2 ^ e := by
    intro k e
    rw [Rat.mkRat_eq_div]
    push_cast
    rcases le_total 0 e with h | h
    · obtain ⟨j, rfl⟩ := Int.eq_ofNat_of_zero_le h
      simp
    · obtain ⟨j, hj⟩ := Int.eq_ofNat_of_zero_le (by omega : 0 ≤ -e)
      obtain rfl : e = -(j : Int) := by omega
      simp [div_eq_mul_inv]
  obtain ⟨t, ht⟩ := Int.eq_ofNat_of_zero_le (by omega : 0 ≤ q - leastExponent F)
  obtain rfl : q = leastExponent F + t := by omega
  unfold patternValue
  simp only [key]
  generalize hP : 2 ^ (precision F - 1) = P at *
  rw [show ((leastExponent F + (t : Int) - leastExponent F).toNat) = t by omega]
  rcases Nat.lt_or_ge m P with h1 | h1
  · have ht0 : t = 0 := by omega
    subst ht0
    rw [Nat.div_eq_of_lt (by omega), Nat.mod_eq_of_lt (by omega)]
    simp
  · rcases Nat.lt_or_ge m (2 * P) with h2 | h2
    · have hd : (t * P + m) / P = t + 1 := by
        rw [Nat.mul_comm, Nat.mul_add_div hpos, show m / P = 1 from Nat.div_eq_of_lt_le (by omega) (by omega)]
      have hr : (t * P + m) % P = m - P := by
        rw [Nat.mul_comm, Nat.mul_add_mod, Nat.mod_eq_sub_mod h1, Nat.mod_eq_of_lt (by omega)]
      rw [hd, hr, if_neg (by omega), if_neg (by omega), show P + (m - P) = m by omega]
      congr 2
      push_cast
      ring
    · obtain rfl : m = 2 * P := by omega
      have hd : (t * P + 2 * P) / P = t + 2 := by
        rw [← Nat.add_mul, Nat.mul_div_cancel _ hpos]
      have hr : (t * P + 2 * P) % P = 0 := by
        rw [← Nat.add_mul, Nat.mul_mod_left]
      rw [hd, hr, if_neg (by omega), if_neg (by omega)]
      have : ((leastExponent F + ((t + 2 : Nat) : Int) - 1)) = leastExponent F + t + 1 := by push_cast; ring
      rw [this, zpow_add_one₀ (by norm_num)]
      push_cast
      ring

end Sys2Proof.Machine
end

