-- ==== Sys2Proof/Laws/PerInstr.lean ====
section
/-! SUPPORT. The family `EncodesLegal`: the word of a command passes the three checks of 30_encoding.md R52. -/

namespace Sys2Proof.Laws.EncodesLegal

/-- The command's word is legal. -/
def Statement (i : Instr) : Prop := wordLegal (encode i) = true

theorem frameBegin : Statement .frameBegin := rfl

theorem pushByte (b : Byte) : Statement (.pushByte b) := by
  revert b
  unfold Statement
  decide

theorem unpack : Statement .unpack := rfl

theorem scale : Statement .scale := rfl

theorem readRaw (ch : Byte) : Statement (.readRaw ch) := by
  revert ch
  unfold Statement
  decide

theorem readVolt (ch : Byte) : Statement (.readVolt ch) := by
  revert ch
  unfold Statement
  decide

theorem readAllVolt : Statement .readAllVolt := rfl

theorem readStatus : Statement .readStatus := rfl

end Sys2Proof.Laws.EncodesLegal
end

