-- ==== Sys2Proof/Tests/Slice0.lean ====
section
/-! SUPPORT. Tests of the model on small states, with expected results from 95_test_vectors.md and the rules' own examples, and for
every statement with hypotheses a state and operands that meet them. -/

namespace Sys2Proof.Tests

open Sys2Proof.Machine

/-- A field of the next state a result holds, if it holds one. -/
def nextField {α : Type} (f : State → α) : StepResult → Option α
  | .next s => some (f s)
  | _ => none

/-- STATUS and the last response after the word `w` is given to `s`. -/
def after (s : State) (w : Nat) : Option (BitVec 32 × Option Response) :=
  nextField (fun t => (statusWord t, t.responses.getLast?)) (step (s.withFetchWord 16 w))

/-- An open frame with `c` bytes. -/
def framed (c : BitVec 5) : State := { State.reset with isOpen := true, cnt := c }

/-- Frame A of 95_test_vectors.md U4. -/
def frameA : Vector Byte 18 :=
  #v[0x7F, 0xFF, 0xE0, 0x00, 0x0F, 0xFF, 0xFC, 0x00, 0x00, 0x3F, 0xFF, 0xC0, 0x00, 0x11, 0x99, 0x9B, 0x99, 0x9A]

/-- Samples stand, voltages do not. -/
def sampled : State := { State.reset with sv := true, sample := #v[0x1FFFF, 0x20000, 0x3FFFF, 0, 0xFFFF, 1, 0x6666, 0x3999A] }

/-- Samples and voltages stand, the voltages stale. -/
def stale : State := { sampled with vv := true, volt := #v[.binary32 0x40A00050, .binary32 0, .binary32 0, .binary32 0,
  .binary32 0, .binary32 0, .binary32 0, .binary32 0x3F800000] }

/-- The fault state of 95_test_vectors.md X4. -/
def faultState : State := { framed 17 with faulted := true, fcause := 4 }

/-! ### Well-formedness: a refused word and a refused operand for each check (30_encoding.md R52, R58) -/

theorem test_opcode_zero_refused : opcodeLegal 0x0000 = false ∧ wordLegal 0x0000 = false := by decide
theorem test_opcode_nine_refused : opcodeLegal 0x9000 = false ∧ wordLegal 0x9000 = false := by decide
theorem test_reserved_bits_refused : reservedLegal 0x4100 = false ∧ wordLegal 0x4100 = false := by decide
theorem test_unused_operand_refused : operandLegal 0x8001 = false ∧ wordLegal 0x8001 = false := by decide
theorem test_legal_words_accepted : [0x1000, 0x20FF, 0x3000, 0x4000, 0x50FF, 0x60FF, 0x7000, 0x8000].all wordLegal = true := by decide
theorem test_imm_256_refused : immLegal 256 = false ∧ immLegal 255 = true := by decide
theorem test_acquire_of_17_refused : acquireLegal (List.replicate 17 0) = false := by decide
theorem test_acquire_with_256_refused : acquireLegal (256 :: List.replicate 17 0) = false := by decide

/-! ### Decoding: words written out bit by bit from 30_encoding.md R47 and R51 -/

theorem test_decode_frameBegin : decode 0b0001000000000000 = .ok .frameBegin := by decide
theorem test_decode_pushByte : decode 0b0010000010100101 = .ok (.pushByte 0xA5) := by decide
theorem test_decode_unpack : decode 0b0011000000000000 = .ok .unpack := by decide
theorem test_decode_scale : decode 0b0100000000000000 = .ok .scale := by decide
theorem test_decode_readRaw : decode 0b0101000000000111 = .ok (.readRaw 7) := by decide
theorem test_decode_readVolt : decode 0b0110000000001000 = .ok (.readVolt 8) := by decide
theorem test_decode_readAllVolt : decode 0b0111000000000000 = .ok .readAllVolt := by decide
theorem test_decode_readStatus : decode 0b1000000000000000 = .ok .readStatus := by decide
theorem test_decode_illegal :
    decode 0x0000 = .error .reservedOpcode ∧ decode 0x1001 = .error .unusedOperand ∧
    decode 0x1100 = .error .reservedBits ∧ decode 0xF0FF = .error .reservedOpcode := by decide
theorem test_decode_table_word : decodeTableWord 16 0x50FF = some (.readRaw 255) ∧ decodeTableWord 16 0x8001 = none := by decide

/-! ### The assembler (30_encoding.md R58) -/

theorem test_assemble_push : assembleLine "PUSH_BYTE 0xA5 ; the second byte".toList = some [.pushByte 0xA5] := by decide
theorem test_assemble_decimal : assembleLine "READ_RAW 255".toList = some [.readRaw 255] := by decide
theorem test_assemble_refusals :
    assembleLine "PUSH_BYTE 256".toList = none ∧ assembleLine "UNPACK 0".toList = none ∧
    assembleLine "ACQUIRE 1, 2, 3".toList = none ∧ assembleLine "read_raw 0".toList = none := by decide

/-! ### Reset (10_state.md R31, 95_test_vectors.md RD4, RD5, X10) -/

theorem test_reset_status :
    statusWord State.reset = 0 ∧ statusWord (State.resetWith ⟨.binary64, true⟩) = 0x000001C0 := by decide
theorem test_reset_event_clears_fault :
    nextField (fun t => (statusWord t, t.responses)) (step { faultState with inputs := [.reset none] }) = some (0, []) := by decide

/-! ### The commands (95_test_vectors.md sections 2.1 to 2.7) -/

theorem test_frameBegin_restarts : after (framed 2) 0x1000 = some (0x00000020, some .none) := by decide
theorem test_pushByte_first : after (framed 0) 0x20A5 = some (0x00000021, some .none) := by decide
theorem test_pushByte_overrun : after (framed 18) 0x2055 = some (0x00000E32, some (.fault 3)) := by decide
theorem test_unpack_incomplete : after (framed 17) 0x3000 = some (0x00001231, some (.fault 4)) := by decide
theorem test_unpack_frameA :
    nextField (fun t => t.sample.toList.map BitVec.toInt) (execUnpack { framed 18 with buf := frameA }) =
      some [131071, -131072, -1, 0, 65535, 1, 26214, -26214] := by decide
theorem test_scale_uninit : after State.reset 0x4000 = some (0x00001600, some (.fault 5)) := by decide
theorem test_scale_frameA :
    nextField (fun t => t.volt) (execScale sampled) =
      some #v[.binary32 0x40A00050, .binary32 0xC0A000A0, .binary32 0xB82000A0, .binary32 0x00000000,
        .binary32 0x40200000, .binary32 0x382000A0, .binary32 0x3F800000, .binary32 0xBF800000] := by decide +kernel
theorem test_scale_binary64 :
    [131071, -131072, -1, 65535, 4095, -43690].map (scaleV .binary64) =
      [.binary64 0x4014000A000A000A, .binary64 0xC014001400140014, .binary64 0xBF04001400140014,
        .binary64 0x4004000000000000, .binary64 0x3FC3FED3FED3FED4, .binary64 0xBFFAAAAAAAAAAAAB] := by decide +kernel
theorem test_readRaw_negative : after sampled 0x5001 = some (0x00000040, some (.raw 0xFFFE0000)) := by decide
theorem test_readRaw_sentinel : after State.reset 0x5008 = some (0, some (.raw 0)) := by decide
theorem test_readVolt_stale : after stale 0x6000 = some (0x000000C0, some (.volt (.binary32 0x40A00050))) := by decide
theorem test_readVolt_sentinel : after State.reset 0x60FF = some (0, some (.volt (.binary32 0))) := by decide
theorem test_readAllVolt_uninit : after State.reset 0x7000 = some (0x00001A00, some (.fault 6)) := by decide
theorem test_readAllVolt_snapshot : after stale 0x7000 = some (0x000000C0, some (.volts stale.volt)) := by decide
theorem test_readStatus_in_fault_state : after faultState 0x8000 = some (0x00001231, some (.status 0x00001231)) := by decide
theorem test_illegal_word : after State.reset 0x8001 = some (0x00000600, some (.fault 1)) := by decide
theorem test_fault_state_refuses :
    after faultState 0x2011 = some (0x00001231, some (.fault 4)) ∧
    after faultState 0x8001 = some (0x00001231, some (.fault 4)) := by decide

/-! ### States that meet the hypotheses of the statements -/

/-- Reset meets the invariants with VC = 0, and with VC = 1. -/
theorem witness_invariants :
    State.reset.Inv ∧ State.reset.CauseInTable ∧ State.reset.VoltsInFormat ∧ (State.resetWith ⟨.binary64, true⟩).Inv := by
  refine ⟨⟨by decide, by decide, by decide, by decide, by decide⟩, by unfold State.CauseInTable; decide, ?_,
    ⟨by decide, by decide, by decide, by decide +kernel, by decide⟩⟩
  unfold State.VoltsInFormat
  decide

/-- EncodeInvertsDecode -/
theorem witness_decodes : decode 0x20A5 = .ok (.pushByte 0xA5) := by decide

/-- WordsSelectTheirOpcodeRow: a word of each operand row, and of each reserved range at its ends. -/
theorem witness_rows :
    decode 0x2000 = .ok (.pushByte 0) ∧ decode 0x50FF = .ok (.readRaw 255) ∧ decode 0x6007 = .ok (.readVolt 7) ∧
    (0x0FFF : Word).toNat / 4096 = 0 ∧ 9 ≤ (0x9000 : Word).toNat / 4096 := by decide

/-- IllegalWordRaisesFaultOne: an illegal word at the port, running and in the fault state. -/
theorem witness_illegal :
    ({ State.reset with inputs := [.command 0x0000] } : State).inputs = .command 0x0000 :: [] ∧
    State.reset.CauseInTable ∧ faultState.CauseInTable ∧ (¬ ∃ i, decode 0x0000 = .ok i) ∧
    State.reset.faulted = false ∧ faultState.faulted = true := by
  have h : decode 0x0000 = .error .reservedOpcode := by decide
  refine ⟨rfl, ?_, ?_, ?_, rfl, rfl⟩
  · unfold State.CauseInTable; decide
  · unfold State.CauseInTable; decide
  · rintro ⟨i, hi⟩
    rw [h] at hi
    cases hi

/-- StepRunsTheDecodedCommand, EveryCommandGetsOneResponse, FaultEntryChangesNothingElse: a word at the port and its next state, with
and without a fault. -/
theorem witness_step :
    decode (BitVec.ofNat 16 0x3000) = .ok .unpack ∧
    nextField State.faulted (step { framed 17 with inputs := [.command 0x3000] }) = some true ∧
    nextField State.faulted (step { framed 18 with inputs := [.command 0x3000] }) = some false := by decide

/-- ResetEventSetsEveryElement: a pending word under the reset, with ZERO_INIT. -/
theorem witness_reset_event :
    ({ State.resetWith ⟨.binary32, true⟩ with inputs := [.reset (some 0x1000)] } : State).inputs =
      .reset (some 0x1000) :: [] := rfl

/-- EmptyPortChangesNothing -/
theorem witness_empty_port : State.reset.inputs = [] := rfl

/-- StepKeepsTheStateInvariants, StepKeepsTheVoltageFormat, StepKeepsTheCauseInTheTable: a step from a state that meets them. -/
theorem witness_kept : step State.reset = .next State.reset := rfl

/-- FrameBeginOpensAFrame: a running state, and an illegal word of the opcode. -/
theorem witness_frame_begin :
    State.reset.faulted = false ∧ (0x1001 : Word).toNat / 4096 = 1 ∧ (0x1001 : Word) ≠ 0x1000 ∧
    (State.reset.withFetchWord 16 0x1001).inputs = .command 0x1001 :: [] ∧ faultState.faulted = true := by decide

/-- PushByteAppendsToTheFrame: each clause, at CNT = 0, 17 and 18. -/
theorem witness_push :
    (State.reset.faulted = false ∧ State.reset.isOpen = false) ∧
    ((framed 18).faulted = false ∧ (framed 18).isOpen = true ∧ (framed 18).cnt = 18) ∧
    ((framed 17).faulted = false ∧ (framed 17).isOpen = true ∧ (framed 17).cnt.toNat < 18) ∧
    (framed 0).cnt.toNat < 18 := by decide

/-- PushByteStopsPastTheBuffer: CNT = 19. -/
theorem witness_push_past :
    (framed 19).faulted = false ∧ (framed 19).isOpen = true ∧ 18 < (framed 19).cnt.toNat := by decide

/-- AcquireDeliversTheFrame: the words of frame A at the port of a running block. -/
theorem witness_acquire :
    ∃ s : State, s.faulted = false ∧
      s.inputs = (acquire frameA).map (fun i => HostEvent.command (encode i)) ++ [.command 0x4000] :=
  ⟨{ State.reset with inputs := (acquire frameA).map (fun i => HostEvent.command (encode i)) ++ [.command 0x4000] },
    rfl, rfl⟩

/-- HalvesOfTheFrameAreIndependent: two frames that differ in the other half only. -/
theorem witness_halves :
    (∀ i : Fin 18, i.val < 9 → frameA[i] = (frameA.set 9 0)[i]) ∧ (∀ i : Fin 18, 9 ≤ i.val → frameA[i] = (frameA.set 8 1)[i]) ∧
    frameA ≠ frameA.set 9 0 ∧ frameA ≠ frameA.set 8 1 := by decide

/-- SignedDecodeIsTwosComplement: both branches, and both ends of the range. -/
theorem witness_decode_ends :
    (0x1FFFF : BitVec 18) &&& 0x20000 = 0 ∧ (0x20000 : BitVec 18) &&& 0x20000 ≠ 0 ∧
    dec18 0x20000 = -131072 ∧ dec18 0x1FFFF = 131071 := by decide

/-- UnpackDecodesEveryChannel, StaleVoltagesStayReadable: closed, incomplete at CNT = 17, complete, and the example's frame. -/
theorem witness_unpack :
    State.reset.isOpen = false ∧ (framed 17).cnt.toNat < 18 ∧ ((framed 18).isOpen = true ∧ (framed 18).cnt = 18) ∧
    nextField (fun t => t.sample.toList.map BitVec.toInt)
      (exec .unpack { framed 18 with buf := #v[0xFF, 0xFF, 0xC0, 0, 0, 0, 0, 0, 0, 0, 0, 0, 0, 0, 0, 0, 0, 0] }) =
        some [-1, 0, 0, 0, 0, 0, 0, 0] ∧
    nextField State.vv (exec .unpack { stale with isOpen := true, cnt := 18 }) = some true := by decide

/-- ScaleConvertsEverySample: both clauses, and the example's sample. -/
theorem witness_scale :
    State.reset.sv = false ∧ sampled.sv = true ∧ sampled.faulted = false ∧ sampled.params.voltageFormat = .binary32 ∧
    ({ sampled with sample := sampled.sample.set 0 0xFFFF } : State).sample[0].toInt = 65535 := by decide

/-- RneIsNearestTiesToEven: a rational in range, a finite value to compare with, and a tie (2^24 + 1 between 2^24 and 2^24 + 2). -/
theorem witness_rne :
    |(16777217 : Rat)| ≤ patternValue .binary32 (infinityPattern .binary32 - 1) ∧
    (rne .binary32 16777217).toRat? = some 16777216 ∧ (Voltage.binary32 0x4B800001).toRat? = some 16777218 ∧
    |(16777217 : Rat) - 16777216| = |(16777217 : Rat) - 16777218| := by
  refine ⟨?_, by decide +kernel, by decide +kernel, by norm_num⟩
  rw [abs_of_nonneg (by norm_num)]
  decide +kernel

/-- ScalevIsNormalOddAndExactAtHalves, ScalevIsMonotonic: samples at both ends. -/
theorem witness_samples :
    (1 : BitVec 18) ≠ 0 ∧ (1 ≤ 131071 ∧ (131071 : Nat) ≤ 131071) ∧ (-10 : Int) ≤ -10 ∧
    (0x20000 : BitVec 18).toInt ≤ (0x1FFFF : BitVec 18).toInt := by decide

/-- ScaleTwiceGivesTheSameVoltages: a running block with samples, and commands in between. -/
theorem witness_scale_twice :
    ∃ t u v, Instr.unpack ∉ [.frameBegin, .readStatus] ∧ exec .scale sampled = .next t ∧
      execAll [.frameBegin, .readStatus] t = .next u ∧ exec .scale u = .next v :=
  ⟨_, _, _, by decide, rfl, rfl, rfl⟩

/-- RawValueIsSignExtended: a read that answers RAW, of channel 7 and of channel 8. -/
theorem witness_raw :
    nextField State.responses (exec (.readRaw 7) sampled) = some [.raw 0xFFFF999A] ∧
    nextField State.responses (exec (.readRaw 8) sampled) = some [.raw 0] := by decide

/-- ReadRawReturnsTheSample, ReadVoltReturnsTheVoltage, OutOfRangeReadsNeverFault: channels 7 and 8, with and without values. -/
theorem witness_channels :
    (7 : Byte).toNat < 8 ∧ 8 ≤ (8 : Byte).toNat ∧ State.reset.sv = false ∧ State.reset.vv = false ∧
    State.reset.faulted = false ∧ (stale.sv = true ∧ stale.vv = true ∧ stale.faulted = false) ∧ sampled.sample[2].toInt = -1 := by
  decide

/-- ReadAllVoltReturnsOneSnapshot: the example's samples, scaled and read. -/
theorem witness_snapshot :
    sampled.sample.toList.map BitVec.toInt = [131071, -131072, -1, 0, 65535, 1, 26214, -26214] ∧
    ∃ t u, exec .scale sampled = .next t ∧ exec .readAllVolt t = .next u :=
  ⟨by decide, _, _, rfl, rfl⟩

/-- ReadStatusReturnsStatusInEveryState: the example's state takes its fault (witness_fault_state meets the clause on the other
commands). -/
theorem witness_status_example :
    (8 : Nat) = (0x8001 : Word).toNat / 4096 ∧ nextField statusWord (exec .unpack (framed 17)) = some 0x00001231 := by decide

/-- ReadsHaveNoSideEffects: a read that faults and one that does not. -/
theorem witness_reads :
    nextField State.faulted (exec (.readRaw 7) State.reset) = some true ∧
    nextField State.faulted (exec .readAllVolt stale) = some false := by decide

/-- FaultStateRefusesAllButReadStatus, OnlyResetLeavesTheFaultState: a word at the port of a block in the fault state, and a reset. -/
theorem witness_fault_state :
    faultState.CauseInTable ∧ faultState.faulted = true ∧
    nextField State.faulted (step { faultState with inputs := [.command 0x5000] }) = some true ∧
    nextField State.faulted (step { faultState with inputs := [.reset none] }) = some false := by
  refine ⟨?_, by decide⟩
  unfold State.CauseInTable
  decide

/-- ReservedFaultCodeIsRefused -/
theorem witness_reserved_code :
    ({ faultState with fcause := 7 } : State).faulted = true ∧ ({ faultState with fcause := 7 } : State).fcause = 7 ∧
    Instr.unpack ≠ .readStatus := by decide

/-- EachFaultHasItsCondition: a state that meets the invariants, for each of the six faults and for none. -/
theorem witness_faults :
    (framed 18).Inv ∧ (framed 17).Inv ∧ State.reset.Inv ∧
    [after State.reset 0x0000, after State.reset 0x2012, after (framed 18) 0x2012, after (framed 17) 0x3000,
      after State.reset 0x5007, after State.reset 0x6007, after (framed 18) 0x3000].map (fun r => r.map (fun x => x.1.extractLsb' 10 3)) =
        [some 1, some 2, some 3, some 4, some 5, some 6, some 0] := by
  refine ⟨⟨by decide, by decide, by decide, by decide, by decide⟩, ⟨by decide, by decide, by decide, by decide, by decide⟩,
    ⟨by decide, by decide, by decide, by decide, by decide⟩, by decide⟩

/-- FaultsDependOnControlBitsOnly: two states that differ in data only, and take the same fault. -/
theorem witness_control_bits :
    (framed 17).buf ≠ ({ framed 17 with buf := frameA } : State).buf ∧
    nextField State.fcause (exec .unpack (framed 17)) = nextField State.fcause (exec .unpack { framed 17 with buf := frameA }) ∧
    nextField State.faulted (exec .unpack (framed 17)) = some true := by decide

/-- CommandsWriteOnlyTheirElements: a command that writes each kind of element. -/
theorem witness_writers :
    nextField (fun t => t.buf[17]) (exec (.pushByte 0xA5) (framed 17)) = some 0xA5 ∧
    nextField State.sv (exec .unpack (framed 18)) = some true ∧ nextField State.vc (exec .scale sampled) = some true := by decide

/-- ElementsWithoutValueAreNeverObserved: two states that differ in BUF, SAMPLE and VOLT and agree on everything that holds a value. -/
theorem witness_no_value :
    State.reset.SameValues { State.reset with buf := frameA, sample := sampled.sample, volt := stale.volt } ∧
    State.reset ≠ { State.reset with buf := frameA, sample := sampled.sample, volt := stale.volt } := by
  refine ⟨⟨rfl, by decide, rfl, rfl, by decide, by decide, rfl, rfl, rfl, rfl, rfl, rfl, rfl⟩, by decide⟩

end Sys2Proof.Tests
end

section
/-! `RNE_F` rounds to nearest, ties to even (00_scope.md R10). A magnitude is measured in units in the last place, that is in steps
`2^q`. It rounds to the multiple of the step whose factor is the nearest integer. Every other value of the format is such a multiple
too, or lies below the magnitude's binade, and then the least value of the binade is nearer. -/

namespace Sys2Proof.Machine

/-! ## The nearest integer, over the rationals -/

/-- The model scales by `2^q.toNat` on one side and `2^(-q).toNat` on the other; together they make `2^q`. -/
theorem two_pow_toNat (q : Int) : (2 : Rat) ^ q.toNat = 2 ^ q * 2 ^ (-q).toNat := by
  rw [← zpow_natCast, ← zpow_natCast, ← zpow_add₀ two_ne_zero]
  congr 1
  omega

theorem abs_sub_divNearestEven_le (n : Nat) {d : Nat} (hd : 0 < d) :
    |(n : Rat) / d - divNearestEven n d| ≤ 1 / 2 := by
  obtain ⟨h1, h2⟩ := divNearestEven_near n hd
  have hd' : (0 : Rat) < d := by exact_mod_cast hd
  have h1' : 2 * ((d : Rat) * divNearestEven n d) ≤ 2 * n + d := by exact_mod_cast h1
  have h2' : 2 * (n : Rat) ≤ 2 * (d * divNearestEven n d) + d := by exact_mod_cast h2
  rw [abs_sub_le_iff, sub_le_iff_le_add, sub_le_comm, div_le_iff₀ hd', le_div_iff₀ hd']
  constructor <;> linarith

/-- `divNearestEven` rounds by one half only at a tie. -/
theorem two_mul_mod_of_half {n d : Nat} (hd : 0 < d)
    (h : 2 * (d * divNearestEven n d) = 2 * n + d ∨ 2 * n = 2 * (d * divNearestEven n d) + d) : 2 * (n % d) = d := by
  have hn := Nat.div_add_mod n d
  have hlt := Nat.mod_lt n hd
  unfold divNearestEven at h
  split at h
  · omega
  · split at h
    · rw [Nat.mul_add] at h
      omega
    · omega

theorem divNearestEven_even_of_half {n d : Nat} (hd : 0 < d) (h : |(n : Rat) / d - divNearestEven n d| = 1 / 2) :
    divNearestEven n d % 2 = 0 := by
  have hd' : (d : Rat) ≠ 0 := by exact_mod_cast hd.ne'
  apply divNearestEven_tie n (two_mul_mod_of_half hd _)
  rcases (abs_eq (by norm_num)).mp h with h | h
  · right
    field_simp at h
    have : 2 * (n : Rat) = 2 * (d * divNearestEven n d) + d := by linarith
    exact_mod_cast this
  · left
    field_simp at h
    have : 2 * ((d : Rat) * divNearestEven n d) = 2 * n + d := by linarith
    exact_mod_cast this

/-- What `divNearestEven` answers, as a nearest integer: no k is nearer, and another k as near makes it even. -/
theorem divNearestEven_nearest (n : Nat) {d : Nat} (hd : 0 < d) (k : Nat) :
    |(n : Rat) / d - divNearestEven n d| ≤ |(n : Rat) / d - k| ∧
    (|(n : Rat) / d - divNearestEven n d| = |(n : Rat) / d - k| → k ≠ divNearestEven n d →
      divNearestEven n d % 2 = 0) := by
  have near := abs_sub_divNearestEven_le n hd
  rcases eq_or_ne k (divNearestEven n d) with rfl | hk
  · exact ⟨le_rfl, fun _ h => absurd rfl h⟩
  · have apart : (1 : Rat) ≤ |(k : Rat) - divNearestEven n d| := by
      exact_mod_cast Int.one_le_abs (sub_ne_zero.mpr (Int.ofNat_inj.not.mpr hk))
    have tri := abs_sub_le (k : Rat) ((n : Rat) / d) (divNearestEven n d)
    rw [abs_sub_comm (k : Rat) ((n : Rat) / d)] at tri
    exact ⟨by linarith, fun he _ => divNearestEven_even_of_half hd (by linarith)⟩

theorem divNearestEven_le {n d k : Nat} (hd : 0 < d) (h : (n : Rat) / d ≤ k) : divNearestEven n d ≤ k := by
  have near := (abs_sub_le_iff.mp (abs_sub_divNearestEven_le n hd)).2
  have : ((divNearestEven n d : Nat) : Rat) < (k + 1 : Nat) := by push_cast; linarith
  exact Nat.lt_succ_iff.mp (by exact_mod_cast this)

theorem le_divNearestEven {n d k : Nat} (hd : 0 < d) (h : (k : Rat) ≤ (n : Rat) / d) : k ≤ divNearestEven n d := by
  have near := (abs_sub_le_iff.mp (abs_sub_divNearestEven_le n hd)).1
  have : (k : Rat) < (divNearestEven n d + 1 : Nat) := by push_cast; linarith
  exact Nat.lt_succ_iff.mp (by exact_mod_cast this)

/-! ## The step around a magnitude -/

theorem two_pow_precision (F : VoltageFormat) : 2 ^ precision F = 2 * 2 ^ (precision F - 1) := by
  cases F <;> rfl

theorem two_dvd_two_pow_precision_sub_one (F : VoltageFormat) : 2 ∣ 2 ^ (precision F - 1) := by
  cases F <;> exact dvd_pow_self 2 (by decide)

theorem zpow_floorLog2_le {n d : Nat} (hn : 0 < n) (hd : 0 < d) : (2 : Rat) ^ floorLog2 n d ≤ (n : Rat) / d := by
  have hd' : (0 : Rat) < d := by exact_mod_cast hd
  have h : (d : Rat) * 2 ^ (floorLog2 n d).toNat ≤ n * 2 ^ (-floorLog2 n d).toNat := by
    exact_mod_cast (floorLog2_spec hn hd).1
  rw [two_pow_toNat (floorLog2 n d), ← mul_assoc] at h
  rw [le_div_iff₀' hd']
  exact le_of_mul_le_mul_right h (by positivity)

theorem lt_zpow_floorLog2_add_one {n d : Nat} (hn : 0 < n) (hd : 0 < d) :
    (n : Rat) / d < 2 ^ (floorLog2 n d + 1) := by
  have hd' : (0 : Rat) < d := by exact_mod_cast hd
  have h : (n : Rat) * 2 ^ (-(floorLog2 n d + 1)).toNat < d * 2 ^ (floorLog2 n d + 1).toNat := by
    exact_mod_cast (floorLog2_spec hn hd).2
  rw [two_pow_toNat (floorLog2 n d + 1), ← mul_assoc] at h
  rw [div_lt_iff₀' hd']
  exact lt_of_mul_lt_mul_right h (by positivity)

theorem leastExponent_le_ulpExponent (F : VoltageFormat) (n d : Nat) : leastExponent F ≤ ulpExponent F n d :=
  le_max_right _ _

theorem lt_ulp (F : VoltageFormat) {n d : Nat} (hn : 0 < n) (hd : 0 < d) :
    (n : Rat) / d < 2 ^ precision F * 2 ^ ulpExponent F n d := by
  refine (lt_zpow_floorLog2_add_one hn hd).trans_le ?_
  rw [← zpow_natCast, ← zpow_add₀ two_ne_zero]
  refine zpow_le_zpow_right₀ one_le_two ?_
  have : floorLog2 n d - ((precision F : Int) - 1) ≤ ulpExponent F n d := le_max_left _ _
  omega

/-- Above the least exponent, the step is the one of the magnitude's own binade. -/
theorem ulp_le (F : VoltageFormat) {n d : Nat} (hn : 0 < n) (hd : 0 < d) :
    ulpExponent F n d = leastExponent F ∨ 2 ^ (precision F - 1) * 2 ^ ulpExponent F n d ≤ (n : Rat) / d := by
  rcases max_choice (floorLog2 n d - ((precision F : Int) - 1)) (leastExponent F) with h | h
  · right
    refine le_trans (le_of_eq ?_) (zpow_floorLog2_le hn hd)
    have hp : 0 < precision F := by cases F <;> decide
    rw [ulpExponent, h, ← zpow_natCast, ← zpow_add₀ two_ne_zero]
    congr 1
    omega
  · exact .inl h

/-- The multiple of the step that `magnitudePattern` takes for `n / d`. -/
def ulpMultiple (F : VoltageFormat) (n d : Nat) : Nat :=
  divNearestEven (n * 2 ^ (-ulpExponent F n d).toNat) (d * 2 ^ (ulpExponent F n d).toNat)

theorem magnitudePattern_zero (F : VoltageFormat) (d : Nat) : magnitudePattern F 0 d = 0 := rfl

theorem magnitudePattern_of_pos (F : VoltageFormat) {n : Nat} (hn : 0 < n) (d : Nat) :
    magnitudePattern F n d = min (infinityPattern F)
      ((ulpExponent F n d - leastExponent F).toNat * 2 ^ (precision F - 1) + ulpMultiple F n d) :=
  if_neg hn.ne'

/-- The quotient that is rounded is the magnitude measured in steps. -/
theorem scaled_quotient (n d : Nat) (q : Int) :
    ((n * 2 ^ (-q).toNat : Nat) : Rat) / (d * 2 ^ q.toNat : Nat) = (n : Rat) / d / 2 ^ q := by
  push_cast
  rw [two_pow_toNat q, ← mul_assoc, mul_div_mul_right _ _ (by positivity), div_div]

theorem ulpMultiple_nearest (F : VoltageFormat) (n : Nat) {d : Nat} (hd : 0 < d) (k : Nat) :
    |(n : Rat) / d - ulpMultiple F n d * 2 ^ ulpExponent F n d| ≤ |(n : Rat) / d - k * 2 ^ ulpExponent F n d| ∧
    (|(n : Rat) / d - ulpMultiple F n d * 2 ^ ulpExponent F n d| = |(n : Rat) / d - k * 2 ^ ulpExponent F n d| →
      k ≠ ulpMultiple F n d → ulpMultiple F n d % 2 = 0) := by
  have hq : (0 : Rat) < 2 ^ ulpExponent F n d := by positivity
  have inSteps : ∀ j : Nat, |(n : Rat) / d - j * 2 ^ ulpExponent F n d| =
      |(n : Rat) / d / 2 ^ ulpExponent F n d - j| * 2 ^ ulpExponent F n d := by
    intro j
    rw [← abs_of_pos hq, ← abs_mul, abs_of_pos hq, sub_mul, div_mul_cancel₀ _ hq.ne']
  have nearest := divNearestEven_nearest (n * 2 ^ (-ulpExponent F n d).toNat)
    (d := d * 2 ^ (ulpExponent F n d).toNat) (by positivity) k
  rw [scaled_quotient] at nearest
  rw [inSteps, inSteps, mul_le_mul_iff_left₀ hq, mul_left_inj' hq.ne']
  exact nearest

theorem ulpMultiple_le (F : VoltageFormat) {n d k : Nat} (hd : 0 < d)
    (h : (n : Rat) / d ≤ k * 2 ^ ulpExponent F n d) : ulpMultiple F n d ≤ k := by
  apply divNearestEven_le (by positivity)
  rwa [scaled_quotient, div_le_iff₀ (by positivity)]

theorem le_ulpMultiple (F : VoltageFormat) {n d k : Nat} (hd : 0 < d)
    (h : k * 2 ^ ulpExponent F n d ≤ (n : Rat) / d) : k ≤ ulpMultiple F n d := by
  apply le_divNearestEven (by positivity)
  rwa [scaled_quotient, le_div_iff₀ (by positivity)]

/-! ## The values of the format, as multiples of the step -/

theorem patternValue_nonneg (F : VoltageFormat) (p : Nat) : 0 ≤ patternValue F p := by
  unfold patternValue
  rw [Rat.mkRat_eq_div]
  positivity

theorem patternValue_zero (F : VoltageFormat) : patternValue F 0 = 0 := by
  simpa using patternValue_eq F (m := 0) le_rfl (Nat.zero_le _) (.inl rfl)

/-- Every pattern is a significand of the format's precision and a step, as `patternValue_eq` packs them. -/
theorem exists_significand (F : VoltageFormat) (p : Nat) :
    ∃ (k : Nat) (e : Int), leastExponent F ≤ e ∧ k < 2 ^ precision F ∧ patternValue F p = k * 2 ^ e := by
  have hp := two_pow_precision F
  have hdiv := Nat.div_add_mod p (2 ^ (precision F - 1))
  have hmod := Nat.mod_lt p (by positivity : 0 < 2 ^ (precision F - 1))
  rcases Nat.eq_zero_or_eq_succ_pred (p / 2 ^ (precision F - 1)) with h | h
  · refine ⟨p, leastExponent F, le_rfl, ?_, ?_⟩
    · rw [h] at hdiv
      omega
    · have value := patternValue_eq F (m := p) le_rfl (by rw [h] at hdiv; omega) (.inl rfl)
      simpa using value
  · generalize (p / 2 ^ (precision F - 1)).pred = E at h
    have value := patternValue_eq F (q := leastExponent F + E) (m := 2 ^ (precision F - 1) + p % 2 ^ (precision F - 1))
      (by omega) (by omega) (.inr (by omega))
    refine ⟨_, _, by omega, by omega, Eq.trans (congrArg _ ?_) value⟩
    rw [h, Nat.mul_succ] at hdiv
    rw [add_sub_cancel_left, Int.toNat_natCast, Nat.mul_comm]
    omega

/-- Seen from a step `2^q`, a value of the format is a multiple of it or lies below the normal values of that step. -/
theorem patternValue_multiple_or_lt (F : VoltageFormat) (q : Int) (p : Nat) :
    (∃ k : Nat, patternValue F p = k * 2 ^ q) ∨
    (q ≠ leastExponent F ∧ patternValue F p < 2 ^ (precision F - 1) * 2 ^ q) := by
  obtain ⟨k, e, he, hk, value⟩ := exists_significand F p
  rw [value]
  rcases le_or_gt q e with h | h
  · left
    obtain ⟨j, rfl⟩ := Int.le.dest h
    refine ⟨k * 2 ^ j, ?_⟩
    rw [zpow_add₀ two_ne_zero, zpow_natCast]
    push_cast
    ring
  · right
    have hk' : (k : Rat) < 2 ^ precision F := by exact_mod_cast hk
    have hp : (2 : Rat) ^ precision F = 2 ^ (precision F - 1) * 2 := by exact_mod_cast (two_pow_precision F).trans (mul_comm _ _)
    refine ⟨by omega, ?_⟩
    calc (k : Rat) * 2 ^ e < 2 ^ precision F * 2 ^ e := mul_lt_mul_of_pos_right hk' (by positivity)
      _ = 2 ^ (precision F - 1) * 2 ^ (e + 1) := by rw [hp, zpow_add_one₀ two_ne_zero]; ring
      _ ≤ 2 ^ (precision F - 1) * 2 ^ q :=
          mul_le_mul_of_nonneg_left (zpow_le_zpow_right₀ one_le_two (by omega)) (by positivity)

/-- The greatest finite value: all bits of the significand set, at the step of the last binade below infinity. -/
theorem exists_greatest_step (F : VoltageFormat) :
    ∃ t : Nat, infinityPattern F = t * 2 ^ (precision F - 1) + 2 ^ precision F ∧
      patternValue F (infinityPattern F - 1) = (2 ^ precision F - 1 : Nat) * 2 ^ (leastExponent F + t) := by
  have packed : ∀ t : Nat, infinityPattern F = t * 2 ^ (precision F - 1) + 2 ^ precision F →
      patternValue F (infinityPattern F - 1) = (2 ^ precision F - 1 : Nat) * 2 ^ (leastExponent F + t) := by
    intro t ht
    have hp := two_pow_precision F
    have hpos : 0 < 2 ^ (precision F - 1) := by positivity
    rw [← patternValue_eq F (by omega) (Nat.sub_le _ _) (.inr (by omega)), add_sub_cancel_left, Int.toNat_natCast]
    congr 1
    omega
  cases F with
  | binary32 => exact ⟨253, rfl, packed 253 rfl⟩
  | binary64 => exact ⟨2045, rfl, packed 2045 rfl⟩

/-! ## The pattern of a rounded magnitude -/

/-- p is the pattern that R10 asks for at the magnitude a: finite, none nearer, and even where another is as near. -/
structure IsNearestEven (F : VoltageFormat) (a : Rat) (p : Nat) : Prop where
  finite : p < infinityPattern F
  nearest : ∀ k, |a - patternValue F p| ≤ |a - patternValue F k|
  even_of_tie : ∀ k, |a - patternValue F p| = |a - patternValue F k| → patternValue F k ≠ patternValue F p → p % 2 = 0

section
variable {F : VoltageFormat} {n d : Nat} (hn : 0 < n) (hd : 0 < d)
include hn hd

theorem ulpMultiple_le_two_pow : ulpMultiple F n d ≤ 2 ^ precision F :=
  ulpMultiple_le F hd (by exact_mod_cast (lt_ulp F hn hd).le)

theorem two_pow_le_ulpMultiple :
    ulpExponent F n d = leastExponent F ∨ 2 ^ (precision F - 1) ≤ ulpMultiple F n d :=
  (ulp_le F hn hd).imp_right fun h => le_ulpMultiple F hd (by exact_mod_cast h)

/-- The step of a magnitude within the finite range is at most the step of the greatest finite value. -/
theorem ulpExponent_le_of_le {t : Nat} (hr : (n : Rat) / d ≤ (2 ^ precision F - 1 : Nat) * 2 ^ (leastExponent F + t)) :
    ulpExponent F n d ≤ leastExponent F + t := by
  rcases ulp_le F hn hd with h | h
  · omega
  · by_contra hlt
    have hstep : (2 : Rat) ^ (leastExponent F + t + 1) ≤ 2 ^ ulpExponent F n d :=
      zpow_le_zpow_right₀ one_le_two (by omega)
    have scaled := (mul_le_mul_of_nonneg_left hstep (by positivity : (0 : Rat) ≤ 2 ^ (precision F - 1))).trans (h.trans hr)
    rw [zpow_add_one₀ two_ne_zero, mul_left_comm, mul_comm, mul_le_mul_iff_left₀ (by positivity)] at scaled
    have : 2 ^ (precision F - 1) * 2 ≤ 2 ^ precision F - 1 := by exact_mod_cast scaled
    have := two_pow_precision F
    have : 0 < 2 ^ (precision F - 1) := by positivity
    omega

/-- A magnitude within the finite range does not round to infinity. -/
theorem packed_lt_infinityPattern (hr : (n : Rat) / d ≤ patternValue F (infinityPattern F - 1)) :
    (ulpExponent F n d - leastExponent F).toNat * 2 ^ (precision F - 1) + ulpMultiple F n d < infinityPattern F := by
  obtain ⟨t, hinf, hmax⟩ := exists_greatest_step F
  rw [hmax] at hr
  have hpos : 0 < 2 ^ (precision F - 1) := by positivity
  have hp := two_pow_precision F
  have hle := ulpExponent_le_of_le hn hd hr
  obtain ⟨j, hj⟩ := Int.le.dest (leastExponent_le_ulpExponent F n d)
  rw [← hj, add_sub_cancel_left, Int.toNat_natCast, hinf]
  rcases (by omega : j ≤ t).eq_or_lt with rfl | hlt
  · rw [hj] at hr
    have := ulpMultiple_le F hd hr
    omega
  · have := ulpMultiple_le_two_pow (F := F) hn hd
    have := Nat.mul_lt_mul_of_pos_right hlt hpos
    omega

/-- A value below the magnitude's binade is farther away than the least value of the binade, so than the nearest multiple. -/
theorem ulpMultiple_nearer_of_lt {w : Rat} (hne : ulpExponent F n d ≠ leastExponent F)
    (hw : w < 2 ^ (precision F - 1) * 2 ^ ulpExponent F n d) :
    |(n : Rat) / d - ulpMultiple F n d * 2 ^ ulpExponent F n d| < |(n : Rat) / d - w| := by
  have hle := (ulp_le F hn hd).resolve_left hne
  have near := (ulpMultiple_nearest F n hd (2 ^ (precision F - 1))).1
  push_cast at near
  rw [abs_of_nonneg (sub_nonneg.mpr hle)] at near
  rw [abs_of_nonneg (by linarith : 0 ≤ (n : Rat) / d - w)]
  linarith

/-- No value of the format is nearer than the nearest multiple of the step, and another as near makes the multiple even. -/
theorem ulpMultiple_nearest_patternValue (p : Nat) :
    |(n : Rat) / d - ulpMultiple F n d * 2 ^ ulpExponent F n d| ≤ |(n : Rat) / d - patternValue F p| ∧
    (|(n : Rat) / d - ulpMultiple F n d * 2 ^ ulpExponent F n d| = |(n : Rat) / d - patternValue F p| →
      patternValue F p ≠ ulpMultiple F n d * 2 ^ ulpExponent F n d → ulpMultiple F n d % 2 = 0) := by
  rcases patternValue_multiple_or_lt F (ulpExponent F n d) p with ⟨k, hk⟩ | ⟨hne, hlt⟩
  · rw [hk]
    obtain ⟨nearest, even⟩ := ulpMultiple_nearest F n hd k
    exact ⟨nearest, fun tie other => even tie (by rintro rfl; exact other rfl)⟩
  · have farther := ulpMultiple_nearer_of_lt hn hd hne hlt
    exact ⟨farther.le, fun tie _ => absurd tie farther.ne⟩

theorem isNearestEven_magnitudePattern_of_pos (hr : (n : Rat) / d ≤ patternValue F (infinityPattern F - 1)) :
    IsNearestEven F ((n : Rat) / d) (magnitudePattern F n d) := by
  have finite := packed_lt_infinityPattern hn hd hr
  have value := patternValue_eq F (leastExponent_le_ulpExponent F n d) (ulpMultiple_le_two_pow hn hd)
    (two_pow_le_ulpMultiple hn hd)
  have nearest := ulpMultiple_nearest_patternValue (F := F) hn hd
  rw [magnitudePattern_of_pos F hn, min_eq_right finite.le]
  refine ⟨finite, fun p => ?_, fun p tie other => ?_⟩
  · rw [value]
    exact (nearest p).1
  · rw [value] at tie other
    have even := Nat.dvd_of_mod_eq_zero ((nearest p).2 tie other)
    exact Nat.mod_eq_zero_of_dvd (dvd_add (Dvd.dvd.mul_left (two_dvd_two_pow_precision_sub_one F) _) even)

end

theorem isNearestEven_magnitudePattern {F : VoltageFormat} {n d : Nat} (hd : 0 < d)
    (hr : (n : Rat) / d ≤ patternValue F (infinityPattern F - 1)) :
    IsNearestEven F ((n : Rat) / d) (magnitudePattern F n d) := by
  rcases Nat.eq_zero_or_pos n with rfl | hn
  · rw [magnitudePattern_zero]
    refine ⟨by cases F <;> decide, fun k => ?_, fun _ _ _ => rfl⟩
    simp [patternValue_zero]
  · exact isNearestEven_magnitudePattern_of_pos hn hd hr

/-! ## Signs -/

theorem abs_of_toRat? {v : Voltage} {z : Rat} (h : v.toRat? = some z) : |z| = patternValue v.format v.pattern := by
  unfold Voltage.toRat? at h
  split at h
  · obtain rfl := Option.some.inj h
    split <;> simp [abs_of_nonneg (patternValue_nonneg _ _)]
  · cases h

/-- The value of `RNE_F(x)`: x's sign and the value of its magnitude pattern. -/
def rneValue (F : VoltageFormat) (x : Rat) : Rat :=
  if x.num < 0 then -patternValue F (magnitudePattern F x.num.natAbs x.den)
  else patternValue F (magnitudePattern F x.num.natAbs x.den)

theorem toRat?_rne {F : VoltageFormat} {x : Rat} (h : magnitudePattern F x.num.natAbs x.den < infinityPattern F) :
    (rne F x).toRat? = some (rneValue F x) := by
  unfold Voltage.toRat? rneValue
  rw [format_rne, pattern_rne, negative_rne, if_pos h]
  simp only [decide_eq_true_eq]

theorem rneValue_of_nonneg {F : VoltageFormat} {x : Rat} (h : 0 ≤ x) :
    rneValue F x = patternValue F (magnitudePattern F x.num.natAbs x.den) :=
  if_neg (not_lt.mpr (Rat.num_nonneg.mpr h))

theorem rneValue_of_neg {F : VoltageFormat} {x : Rat} (h : x < 0) :
    rneValue F x = -patternValue F (magnitudePattern F x.num.natAbs x.den) :=
  if_pos (Rat.num_neg.mpr h)

theorem abs_sub_rneValue (F : VoltageFormat) (x : Rat) :
    |x - rneValue F x| = |(|x| - patternValue F (magnitudePattern F x.num.natAbs x.den))| := by
  rcases le_or_gt 0 x with h | h
  · rw [rneValue_of_nonneg h, abs_of_nonneg h]
  · rw [rneValue_of_neg h, abs_of_neg h, ← abs_neg]
    congr 1
    ring

theorem abs_rneValue (F : VoltageFormat) (x : Rat) :
    |rneValue F x| = patternValue F (magnitudePattern F x.num.natAbs x.den) := by
  unfold rneValue
  split <;> simp [abs_of_nonneg (patternValue_nonneg _ _)]

theorem rneValue_zero (F : VoltageFormat) : rneValue F 0 = 0 :=
  (rneValue_of_nonneg le_rfl).trans (patternValue_zero F)

/-- The opposite of `RNE_F(x)` is as near to x only where both are zero. -/
theorem eq_rneValue_of_tie {F : VoltageFormat} {x z : Rat} (habs : |z| = |rneValue F x|)
    (tie : |x - rneValue F x| = |x - z|) : z = rneValue F x := by
  rcases abs_eq_abs.mp habs with h | rfl
  · exact h
  · have product : x * rneValue F x = 0 := by
      have := sq_eq_sq_iff_abs_eq_abs _ _ |>.mpr tie
      linarith
    have zero : rneValue F x = 0 := by
      rcases mul_eq_zero.mp product with rfl | h
      · exact rneValue_zero F
      · exact h
    rw [zero, neg_zero]

theorem num_natAbs_div_den (x : Rat) : (x.num.natAbs : Rat) / x.den = |x| := by
  rw [Nat.cast_natAbs, Int.cast_abs]
  conv_rhs => rw [← Rat.num_div_den x, abs_div, Nat.abs_cast]

/-- Settles O29: the magnitude of x is rounded to nearest even, and a value of the other sign is no nearer than its magnitude is. -/
theorem rneIsNearestTiesToEven : Obligations.RneIsNearestTiesToEven := by
  intro F x hx
  rw [← num_natAbs_div_den] at hx
  obtain ⟨finite, nearest, even_of_tie⟩ := isNearestEven_magnitudePattern x.den_pos hx
  rw [num_natAbs_div_den] at nearest even_of_tie
  simp only [← abs_sub_rneValue] at nearest even_of_tie
  have value : ∀ {v : Voltage} {z : Rat}, v.format = F → v.toRat? = some z → |z| = patternValue F v.pattern :=
    fun hv hz => hv ▸ abs_of_toRat? hz
  refine ⟨format_rne F x, rneValue F x, toRat?_rne finite, fun v z hv hz => ?_, fun v z hv hz tie other => ?_⟩
  · calc |x - rneValue F x| ≤ |(|x| - |z|)| := value hv hz ▸ nearest v.pattern
      _ ≤ |x - z| := abs_abs_sub_abs_le x z
  · rw [pattern_rne]
    refine even_of_tie v.pattern (le_antisymm (nearest v.pattern) ?_) fun same => ?_
    · rw [tie, ← value hv hz]
      exact abs_abs_sub_abs_le x z
    · exact other (eq_rneValue_of_tie (by rw [value hv hz, same, abs_rneValue]) tie)

end Sys2Proof.Machine
end

section
/-! What every step keeps. A step is a change of the two ports, a reset, a fault entry or the effect of a command, so a property
of the state is an invariant once each of these four keeps it. -/

namespace Sys2Proof.Machine

/-- `P` is kept by every step if it is kept by a change of the ports, by reset, by fault entry and by each command's effect. -/
theorem step_keeps {P : State → Prop}
    (ports : ∀ s inputs responses, P s → P { s with inputs := inputs, responses := responses })
    (reset : ∀ s, P s → P s.takeReset)
    (fault : ∀ s c, s.faulted = false → (c = .illegalCmd ∨ ∃ i, FaultCondition s i c) → P s → P (s.takeFault c))
    (effect : ∀ s i t, s.faulted = false → Completes s i t → P s → P t)
    {s t : State} (hs : P s) (h : step s = .next t) : P t := by
  have respond : ∀ s r, P s → P (s.respond r) := fun s r => ports s s.inputs _
  have accept : ∀ s rest, P s → P { s with inputs := rest } := fun s rest => ports s rest s.responses
  rcases step_next h with ⟨-, rfl⟩ | ⟨p, rest, -, rfl⟩ | ⟨w, rest, i, -, -, h⟩ | ⟨w, rest, e, -, -, h⟩
  · exact hs
  · exact reset _ (accept s rest hs)
  · rcases exec_next h with ⟨-, -, -, rfl⟩ | ⟨-, rfl⟩ | ⟨hf, c, hc, rfl⟩ | ⟨hf, hc⟩
    · exact respond _ _ (accept s rest hs)
    · exact respond _ _ (accept s rest hs)
    · exact fault _ c hf (.inr ⟨i, hc⟩) (accept s rest hs)
    · exact effect _ i t hf hc (accept s rest hs)
  · rcases illegalCommand_next h with ⟨-, -, rfl⟩ | ⟨hf, rfl⟩
    · exact respond _ _ (accept s rest hs)
    · exact fault _ _ hf (.inl rfl) (accept s rest hs)

/-! ## The invariants of 10_state.md R32 -/

/-- The resting voltage is the conversion of the resting sample, so reset under ZERO_INIT meets (d) with VC = 1. -/
theorem scaleV_zero (F : VoltageFormat) : scaleV F 0 = Voltage.zero F := by
  cases F <;> decide +kernel

@[simp] theorem scaledVolts_getElem (F : VoltageFormat) (sample : Vector (BitVec 18) 8) (k : Nat) (h : k < 8) :
    (scaledVolts F sample)[k] = scaleV F sample[k].toInt :=
  perChannel_getElem _ k h

theorem State.Inv.ports {s : State} (h : s.Inv) (inputs : List HostEvent) (responses : List Response) :
    State.Inv { s with inputs := inputs, responses := responses } :=
  { h with }

theorem State.Inv.respond {s : State} (h : s.Inv) (r : Response) : (s.respond r).Inv :=
  h.ports s.inputs _

theorem inv_resetWith (p : Params) : (State.resetWith p).Inv where
  cntAtMost18 := Nat.zero_le _
  closedHoldsNoByte _ := rfl
  currentIsValid h := ⟨h, h⟩
  currentIsScaled _ k := by simpa [State.resetWith] using (scaleV_zero p.voltageFormat).symm
  faultedHasCause := by simp [State.resetWith]

theorem State.inv_takeReset (s : State) : s.takeReset.Inv :=
  (inv_resetWith s.params).ports _ _

theorem State.Inv.takeFault {s : State} (h : s.Inv) (c : Cause) : (s.takeFault c).Inv :=
  { h with faultedHasCause := by simpa using c.code_ne.1 }

theorem State.Inv.openFrame {s : State} (h : s.Inv) : s.openFrame.Inv :=
  { h with cntAtMost18 := Nat.zero_le _, closedHoldsNoByte := fun _ => rfl }

theorem State.storeByte_cnt_toNat (s : State) (b : Byte) (h : s.cnt.toNat < 18) :
    (s.storeByte b h).cnt.toNat = s.cnt.toNat + 1 := by
  rw [State.storeByte_cnt, BitVec.toNat_add]
  exact Nat.mod_eq_of_lt (by simp; omega)

theorem State.Inv.storeByte {s : State} (h : s.Inv) (ho : s.isOpen = true) (b : Byte) (hc : s.cnt.toNat < 18) :
    (s.storeByte b hc).Inv :=
  { h with
    cntAtMost18 := by rw [s.storeByte_cnt_toNat]; omega
    closedHoldsNoByte := by simp [ho] }

theorem State.Inv.unpacked {s : State} (h : s.Inv) (v : Vector (BitVec 18) 8) : (s.writeSamples v).markUnpacked.Inv where
  cntAtMost18 := Nat.zero_le _
  closedHoldsNoByte _ := rfl
  currentIsValid := by simp
  currentIsScaled := by simp
  faultedHasCause := h.faultedHasCause

theorem State.Inv.scaled {s : State} (h : s.Inv) (hs : s.sv = true) :
    (s.writeVolts (scaledVolts s.params.voltageFormat s.sample)).markScaled.Inv :=
  { h with
    currentIsValid := by simp [hs]
    currentIsScaled := by simp }

theorem State.Inv.effect {s t : State} {i : Instr} (h : s.Inv) (hc : Completes s i t) : t.Inv := by
  cases hc with
  | frameBegin => exact h.openFrame.respond _
  | pushByte b hc ho => exact (h.storeByte ho b hc).respond _
  | unpack => exact (h.unpacked _).respond _
  | scale hs => exact (h.scaled hs).respond _
  | _ => exact h.respond _

/-- Settles O15: each of the shared operations keeps the five invariants, and `SCALE` makes (d) true anew. -/
theorem stepKeepsTheStateInvariants : Obligations.StepKeepsTheStateInvariants :=
  ⟨inv_resetWith, fun _ _ => step_keeps (fun _ inputs responses h => h.ports inputs responses)
    (fun s _ => s.inv_takeReset) (fun _ c _ _ h => h.takeFault c) (fun _ _ _ _ hc h => h.effect hc)⟩

/-! ## The format of the voltages (10_state.md R20) -/

@[simp] theorem Voltage.format_zero (F : VoltageFormat) : (Voltage.zero F).format = F := by
  cases F <;> rfl

theorem voltsInFormat_resetWith (p : Params) : (State.resetWith p).VoltsInFormat := by
  simp [State.VoltsInFormat, State.resetWith]

theorem Completes.params_eq {s t : State} {i : Instr} (h : Completes s i t) : t.params = s.params := by
  cases h <;> rfl

theorem State.VoltsInFormat.effect {s t : State} {i : Instr} (h : s.VoltsInFormat) (hc : Completes s i t) :
    t.VoltsInFormat := by
  cases hc with
  | scale => simp [State.VoltsInFormat, format_scaleV]
  | _ => exact h

/-- Settles O16: only `SCALE` and reset write VOLT, and both write values of the block's format. -/
theorem stepKeepsTheVoltageFormat : Obligations.StepKeepsTheVoltageFormat := fun s _ hs =>
  step_keeps (P := fun t => t.VoltsInFormat ∧ t.params = s.params) (fun _ _ _ h => h)
    (fun t h => ⟨voltsInFormat_resetWith t.params, h.2⟩) (fun _ _ _ _ h => h)
    (fun _ _ _ _ hc h => ⟨h.1.effect hc, hc.params_eq.trans h.2⟩) ⟨hs, rfl⟩

/-- Settles O14: under ZERO_INIT every voltage is the conversion of its sample, and otherwise VC = 0. -/
theorem resetMeetsTheInvariants : Obligations.ResetMeetsTheInvariants := fun p =>
  ⟨inv_resetWith p, voltsInFormat_resetWith p, by simp [State.CauseInTable, State.resetWith]⟩

end Sys2Proof.Machine
end

section
/-! STATUS and the elements at reset (10_state.md R26, R31), and who writes which element (R24, R30). -/

namespace Sys2Proof.Machine

/-! ## STATUS -/

/-- STATUS bit by bit, each field at its place in the row of 10_state.md R26. -/
theorem statusWord_getLsbD (s : State) (i : Nat) :
    (statusWord s).getLsbD i =
      if i < 5 then s.cnt.getLsbD i else if i = 5 then s.isOpen else if i = 6 then s.sv else if i = 7 then s.vv
      else if i = 8 then s.vc else if i = 9 then s.faulted else s.fcause.getLsbD (i - 10) := by
  simp only [statusWord, BitVec.getLsbD_setWidth, BitVec.getLsbD_append, BitVec.getLsbD_ofBool]
  rcases Nat.lt_or_ge i 10 with h | h
  · interval_cases i <;> simp
  · obtain ⟨j, rfl⟩ := Nat.exists_eq_add_of_le' h
    suffices s.fcause.getLsbD j = true → j + 10 < 32 by simpa
    intro hj
    have := BitVec.lt_of_getLsbD hj
    omega

theorem statusWord_resetWith (p : Params) :
    statusWord (State.resetWith p) = if p.zeroInit then 0x000001C0 else 0x00000000 := by
  simp only [statusWord, State.resetWith]
  cases p.zeroInit <;> decide

/-- Settles O40: each field is read off STATUS bit by bit. -/
theorem statusHasItsLayout : Obligations.StatusHasItsLayout := by
  refine ⟨statusWord_resetWith, fun s => ⟨?cnt, ?_, ?_, ?_, ?_, ?_, ?fcause, ?reserved⟩⟩
  case cnt =>
    ext i hi
    simp [statusWord_getLsbD, hi]
  case fcause =>
    ext i hi
    rw [BitVec.getElem_extractLsb', Nat.add_comm, statusWord_getLsbD]
    simp [hi]
  case reserved =>
    ext i hi
    simp [statusWord_getLsbD, Nat.add_comm 13]
  all_goals exact statusWord_getLsbD s _

/-- Settles O10: the elements R31 gives a value hold it by the definition of the reset state. -/
theorem powerOnStateHoldsResetValues : Obligations.PowerOnStateHoldsResetValues := by
  refine ⟨rfl, fun p => ⟨rfl, rfl, rfl, rfl, rfl, rfl, rfl, fun _ k => ?_, statusWord_resetWith p⟩⟩
  simp [State.resetWith]

/-! ## Frame input past the buffer -/

/-- Settles O20: the open check and the check for a full frame pass, and CNT names no element of BUF. -/
theorem pushByteStopsPastTheBuffer : Obligations.PushByteStopsPastTheBuffer := by
  intro s b hf ho hc
  have hne : s.cnt ≠ 18 := fun h => by simp [h] at hc
  show execPushByte b s = _
  rw [execPushByte, ifRunning_running hf, if_neg (by simp [ho]), if_neg hne, dif_neg (by omega)]

/-! ## The fault state -/

/-- In the fault state a command answers a response and changes no element. -/
theorem exec_next_of_faulted {s t : State} {i : Instr} (h : exec i s = .next t) (hf : s.faulted = true) :
    ∃ r, t = s.respond r := by
  rcases exec_next h with ⟨-, -, -, ht⟩ | ⟨-, ht⟩ | ⟨hr, -⟩ | ⟨hr, -⟩
  · exact ⟨_, ht⟩
  · exact ⟨_, ht⟩
  · simp [hf] at hr
  · simp [hf] at hr

/-- Settles O47: in the fault state a command only responds, and a reset clears both elements. -/
theorem onlyResetLeavesTheFaultState : Obligations.OnlyResetLeavesTheFaultState := by
  intro s t hf h
  rcases step_next h with ⟨-, rfl⟩ | ⟨p, rest, hp, rfl⟩ | ⟨w, rest, i, -, -, h⟩ | ⟨w, rest, e, -, -, h⟩
  · exact .inl ⟨hf, rfl⟩
  · exact .inr ⟨p, rest, hp, rfl, rfl⟩
  · obtain ⟨r, rfl⟩ := exec_next_of_faulted h hf
    exact .inl ⟨hf, rfl⟩
  · rcases illegalCommand_next h with ⟨-, -, rfl⟩ | ⟨hr, -⟩
    · exact .inl ⟨hf, rfl⟩
    · simp [hf] at hr

/-! ## The writers -/

theorem State.eq_of_storeByte_buf_ne {s : State} {b : Byte} (h : s.cnt.toNat < 18) {j : Fin 18}
    (hj : (s.storeByte b h).buf[j] ≠ s.buf[j]) : j.val = s.cnt.toNat := by
  by_contra hne
  exact hj (Vector.getElem_set_ne h j.isLt (Ne.symm hne))

/-- Settles O50: a response writes no element, a fault entry FAULTED and FCAUSE of a running block, and each effect its own. -/
theorem commandsWriteOnlyTheirElements : Obligations.CommandsWriteOnlyTheirElements := by
  intro s t i h
  rcases exec_next h with ⟨-, -, -, rfl⟩ | ⟨-, rfl⟩ | ⟨hf, c, -, rfl⟩ | ⟨-, hc⟩
  · simp
  · simp
  · simp [hf]
  · cases hc with
    | pushByte b hc ho =>
      exact ⟨by simp, fun j hj => ⟨⟨b, rfl⟩, State.eq_of_storeByte_buf_ne hc hj⟩, by simp⟩
    | _ => simp

end Sys2Proof.Machine
end

section
/-! Elements without a value are never observed (10_state.md R31). Each shared operation, given to two states that agree on everything
that holds a value, answers two such states. The checks of a command read flags only, on which the two agree, and what a command
reads besides, it reads behind the check that the element holds a value. -/

namespace Sys2Proof.Machine

namespace State.SameValues

variable {s t : State} (h : s.SameValues t)
include h

theorem accept (rest : List HostEvent) : State.SameValues { s with inputs := rest } { t with inputs := rest } :=
  { h with inputs := rfl }

theorem respond (r : Response) : (s.respond r).SameValues (t.respond r) :=
  { h with responses := by simp [h.responses] }

theorem takeFault (c : Cause) : (s.takeFault c).SameValues (t.takeFault c) :=
  { h with faulted := rfl, fcause := rfl, responses := by simp [h.responses] }

theorem takeReset : s.takeReset.SameValues t.takeReset where
  params := h.params
  buf _ _ _ := rfl
  cnt := rfl
  isOpen := rfl
  sample _ := rfl
  volt _ := by simp [h.params]
  sv := by simp [h.params]
  vv := by simp [h.params]
  vc := by simp [h.params]
  faulted := rfl
  fcause := rfl
  inputs := h.inputs
  responses := h.responses

theorem openFrame : s.openFrame.SameValues t.openFrame :=
  { h with buf := fun _ _ hi => absurd hi (Nat.not_lt_zero _), cnt := rfl, isOpen := rfl }

theorem storeByte (ho : s.isOpen = true) (b : Byte) (hs : s.cnt.toNat < 18) (ht : t.cnt.toNat < 18) :
    (s.storeByte b hs).SameValues (t.storeByte b ht) :=
  { h with
    buf := fun _ i hi => by
      rw [s.storeByte_cnt_toNat] at hi
      simp only [State.storeByte_buf, Fin.getElem_fin, Vector.getElem_set, ← h.cnt]
      split
      · rfl
      · exact h.buf ho i (by omega)
    cnt := by simp [h.cnt] }

theorem unpacked (v : Vector (BitVec 18) 8) :
    (s.writeSamples v).markUnpacked.SameValues (t.writeSamples v).markUnpacked :=
  { h with
    buf := by simp
    cnt := rfl
    isOpen := rfl
    sample := fun _ => rfl
    sv := rfl
    vc := rfl }

theorem scaled (v : Vector Voltage 8) : (s.writeVolts v).markScaled.SameValues (t.writeVolts v).markScaled :=
  { h with volt := fun _ => rfl, vv := rfl, vc := rfl }

/-- A complete frame is all of BUF. -/
theorem buf_eq_of_complete (ho : s.isOpen = true) (hc : 18 ≤ s.cnt.toNat) : s.buf = t.buf :=
  Vector.ext fun i hi => h.buf ho ⟨i, hi⟩ (by simp; omega)

theorem statusWord_eq : statusWord s = statusWord t := by
  simp only [statusWord, h.fcause, h.faulted, h.vc, h.vv, h.sv, h.isOpen, h.cnt]

/-! ## The commands -/

theorem refuseCommand : SameValuesAfter (refuseCommand s) (refuseCommand t) := by
  simp only [Machine.refuseCommand, ← h.fcause]
  split
  · rfl
  · exact h.respond _

theorem ifRunning {body : State → StepResult} (hb : SameValuesAfter (body s) (body t)) :
    SameValuesAfter (ifRunning s body) (ifRunning t body) := by
  simp only [Machine.ifRunning, ← h.faulted]
  split
  · exact h.refuseCommand
  · exact hb

theorem illegalCommand : SameValuesAfter (illegalCommand s) (illegalCommand t) :=
  h.ifRunning (body := raiseFault .illegalCmd) (h.takeFault _)

theorem execFrameBegin : SameValuesAfter (execFrameBegin s) (execFrameBegin t) :=
  h.ifRunning (h.openFrame.respond _)

theorem execPushByte (b : Byte) : SameValuesAfter (execPushByte b s) (execPushByte b t) := by
  apply h.ifRunning
  simp only [← h.isOpen, ← h.cnt]
  split
  case isTrue => exact h.takeFault _
  case isFalse ho =>
    split
    case isTrue => exact h.takeFault _
    case isFalse =>
      split
      · exact (h.storeByte (Bool.eq_true_of_not_eq_false ho) b _ _).respond _
      · rfl

theorem execUnpack : SameValuesAfter (execUnpack s) (execUnpack t) := by
  apply h.ifRunning
  simp only [← h.isOpen, ← h.cnt]
  split
  case isTrue => exact h.takeFault _
  case isFalse ho =>
    split
    case isTrue => exact h.takeFault _
    case isFalse hc =>
      rw [h.buf_eq_of_complete (Bool.eq_true_of_not_eq_false ho) (Nat.le_of_not_lt hc)]
      exact (h.unpacked _).respond _

theorem execScale : SameValuesAfter (execScale s) (execScale t) := by
  apply h.ifRunning
  simp only [← h.sv]
  split
  case isTrue => exact h.takeFault _
  case isFalse hs =>
    rw [h.sample (Bool.eq_true_of_not_eq_false hs), h.params]
    exact (h.scaled _).respond _

theorem execReadRaw (ch : Byte) : SameValuesAfter (execReadRaw ch s) (execReadRaw ch t) := by
  apply h.ifRunning
  simp only [← h.sv]
  cases channelIndex ch with
  | none => exact h.respond _
  | some k =>
    dsimp only
    split
    case isTrue => exact h.takeFault _
    case isFalse hs =>
      rw [h.sample (Bool.eq_true_of_not_eq_false hs)]
      exact h.respond _

theorem execReadVolt (ch : Byte) : SameValuesAfter (execReadVolt ch s) (execReadVolt ch t) := by
  apply h.ifRunning
  simp only [← h.vv, ← h.params]
  cases channelIndex ch with
  | none => exact h.respond _
  | some k =>
    dsimp only
    split
    case isTrue => exact h.takeFault _
    case isFalse hv =>
      rw [h.volt (Bool.eq_true_of_not_eq_false hv)]
      exact h.respond _

theorem execReadAllVolt : SameValuesAfter (execReadAllVolt s) (execReadAllVolt t) := by
  apply h.ifRunning
  simp only [← h.vv]
  split
  case isTrue => exact h.takeFault _
  case isFalse hv =>
    rw [h.volt (Bool.eq_true_of_not_eq_false hv)]
    exact h.respond _

theorem execReadStatus : SameValuesAfter (execReadStatus s) (execReadStatus t) := by
  unfold Machine.execReadStatus
  rw [h.statusWord_eq]
  exact h.respond _

theorem exec (i : Instr) : SameValuesAfter (exec i s) (exec i t) := by
  cases i with
  | frameBegin => exact h.execFrameBegin
  | pushByte b => exact h.execPushByte b
  | unpack => exact h.execUnpack
  | scale => exact h.execScale
  | readRaw ch => exact h.execReadRaw ch
  | readVolt ch => exact h.execReadVolt ch
  | readAllVolt => exact h.execReadAllVolt
  | readStatus => exact h.execReadStatus

theorem step : SameValuesAfter (step s) (step t) := by
  unfold Machine.step
  cases hi : s.inputs with
  | nil =>
    rw [acceptEvent_nil hi, acceptEvent_nil (h.inputs ▸ hi)]
    exact h
  | cons e rest =>
    rw [acceptEvent_cons hi, acceptEvent_cons (h.inputs ▸ hi)]
    cases e with
    | reset p => exact (h.accept rest).takeReset
    | command w =>
      cases hd : decode w with
      | ok i => simpa [hd] using (h.accept rest).exec i
      | error e => simpa [hd] using (h.accept rest).illegalCommand

end State.SameValues

/-- Settles O51: every meaning checks that an element holds a value before it reads the element. -/
theorem elementsWithoutValueAreNeverObserved : Obligations.ElementsWithoutValueAreNeverObserved :=
  fun _ _ h => h.step

end Sys2Proof.Machine
end

section
/-! Reads have no side effects (20_memory.md R40). A read that takes no fault only responds, and what it checks and reads is no part
of the response port, so it completes in the state it leaves with the same response. -/

namespace Sys2Proof.Machine

/-- A running block does the effect of a command whose checks pass: `exec_next` for the fourth outcome, the other way round. -/
theorem Completes.exec_eq {s t : State} {i : Instr} (h : Completes s i t) (hf : s.faulted = false) :
    exec i s = .next t := by
  cases h with
  | frameBegin => simp [exec, execFrameBegin, ifRunning_running hf]
  | pushByte b h ho =>
    have hne : s.cnt ≠ 18 := fun hc => by simp [hc] at h
    show execPushByte b s = _
    rw [execPushByte, ifRunning_running hf, if_neg (by simp [ho]), if_neg hne, dif_pos h]
  | unpack ho h => simp [exec, execUnpack, ifRunning_running hf, ho, Nat.not_lt.mpr h]
  | scale h => simp [exec, execScale, ifRunning_running hf, h]
  | rawSentinel ch h => simp [exec, execReadRaw, ifRunning_running hf, channelIndex_of_ge h]
  | raw ch h hs => simp [exec, execReadRaw, ifRunning_running hf, channelIndex_of_lt h, hs]
  | voltSentinel ch h => simp [exec, execReadVolt, ifRunning_running hf, channelIndex_of_ge h]
  | volt ch h hv => simp [exec, execReadVolt, ifRunning_running hf, channelIndex_of_lt h, hv]
  | volts hv => simp [exec, execReadAllVolt, ifRunning_running hf, hv]

/-- The commands of R40. -/
def IsRead (i : Instr) : Prop :=
  (∃ ch, i = .readRaw ch) ∨ (∃ ch, i = .readVolt ch) ∨ i = .readAllVolt ∨ i = .readStatus

theorem Completes.read_again {s t : State} {i : Instr} (hi : IsRead i) (h : Completes s i t) :
    ∃ r, t = s.respond r ∧ Completes t i (t.respond r) := by
  cases h with
  | rawSentinel ch h => exact ⟨_, rfl, .rawSentinel ch h⟩
  | raw ch h hs => exact ⟨_, rfl, .raw ch h hs⟩
  | voltSentinel ch h => exact ⟨_, rfl, .voltSentinel ch h⟩
  | volt ch h hv => exact ⟨_, rfl, .volt ch h hv⟩
  | volts hv => exact ⟨_, rfl, .volts hv⟩
  | _ => simp [IsRead] at hi

@[simp] theorem statusWord_respond (s : State) (r : Response) : statusWord (s.respond r) = statusWord s := rfl

/-- A read in a running block takes a fault, or it only responds and the same read again gives the same response. -/
theorem exec_read_next {s t : State} {i : Instr} (hi : IsRead i) (hf : s.faulted = false) (h : exec i s = .next t) :
    (∃ c, t = s.takeFault c) ∨ ∃ r, t = s.respond r ∧ exec i t = .next (t.respond r) := by
  rcases exec_next h with ⟨-, hr, -⟩ | ⟨rfl, rfl⟩ | ⟨-, c, -, rfl⟩ | ⟨-, hc⟩
  · simp [hf] at hr
  · exact .inr ⟨_, rfl, by simp [exec, execReadStatus]⟩
  · exact .inl ⟨c, rfl⟩
  · obtain ⟨r, rfl, again⟩ := hc.read_again hi
    exact .inr ⟨r, rfl, again.exec_eq hf⟩

/-- Settles O42: a fault entry writes FAULTED and FCAUSE, and a read without one only responds, the same each time. -/
theorem readsHaveNoSideEffects : Obligations.ReadsHaveNoSideEffects := by
  intro s t i hi hf h
  rcases exec_read_next hi hf h with ⟨c, rfl⟩ | ⟨r, rfl, again⟩
  · exact ⟨rfl, fun hn => by simp at hn⟩
  · exact ⟨rfl, fun _ => ⟨rfl, r, _, rfl, again, rfl⟩⟩

end Sys2Proof.Machine
end

section
/-! Decoding and encoding (30_encoding.md R47, R51, R52, R54). A word decodes to a command iff it is the command's own word; the rows
of the opcode map, the legal words and their number follow from that. -/

namespace Sys2Proof

/-! ## The round trip -/

theorem decode_encode (i : Instr) : decode (encode i) = .ok i := by
  cases i <;> simp [decode, encode, noOperand, rsvField_packWord, opField_packWord, immField_packWord]

theorem packWord_zero_toNat (op : BitVec 4) : (packWord op 0).toNat = op.toNat * 4096 := by
  simp [packWord_toNat]

theorem packWord_eq_of_toNat {op : BitVec 4} {imm : Byte} {w : Word} (h : op.toNat * 4096 + imm.toNat = w.toNat) :
    packWord op imm = w :=
  BitVec.eq_of_toNat_eq ((packWord_toNat op imm).trans h)

theorem packWord_of_fields {op : BitVec 4} {imm : Byte} {w : Word} (hr : rsvField w = 0)
    (hop : (opField w).toNat = op.toNat) (himm : immField w = imm) : packWord op imm = w := by
  rw [← BitVec.eq_of_toNat_eq hop, ← himm, packWord_fields w hr]

theorem encode_of_decode {w : Word} {i : Instr} (h : decode w = .ok i) : encode i = w := by
  obtain ⟨hr, h⟩ := decode_ok h
  rcases h with ⟨rfl, hop, himm⟩ | ⟨rfl, hop⟩ | ⟨rfl, hop, himm⟩ | ⟨rfl, hop, himm⟩ | ⟨rfl, hop⟩ | ⟨rfl, hop⟩ |
    ⟨rfl, hop, himm⟩ | ⟨rfl, hop, himm⟩
  · exact packWord_of_fields hr hop himm
  · exact packWord_of_fields hr hop rfl
  · exact packWord_of_fields hr hop himm
  · exact packWord_of_fields hr hop himm
  · exact packWord_of_fields hr hop rfl
  · exact packWord_of_fields hr hop rfl
  · exact packWord_of_fields hr hop himm
  · exact packWord_of_fields hr hop himm

theorem decode_eq_ok_iff {w : Word} {i : Instr} : decode w = .ok i ↔ encode i = w :=
  ⟨encode_of_decode, fun h => h ▸ decode_encode i⟩

theorem exists_decode_error_iff {w : Word} : (∃ e, decode w = .error e) ↔ ¬ ∃ i, decode w = .ok i := by
  cases decode w <;> simp

/-! ## The rows of the opcode map -/

/-- A field of k bits at bit n, cut out by its mask. -/
theorem toNat_and_fieldMask {w mask : Word} (n k : Nat) (h : mask.toNat = (2 ^ k - 1) * 2 ^ n) :
    (w &&& mask).toNat = w.toNat / 2 ^ n % 2 ^ k * 2 ^ n := by
  rw [BitVec.toNat_and, h, ← Nat.shiftLeft_eq, ← Nat.shiftLeft_eq, ← Nat.shiftRight_eq_div_pow]
  apply Nat.eq_of_testBit_eq
  intro i
  simp only [Nat.testBit_and, Nat.testBit_shiftLeft, Nat.testBit_mod_two_pow, Nat.testBit_shiftRight,
    Nat.testBit_two_pow_sub_one]
  rcases Nat.lt_or_ge i n with hi | hi
  · simp [Nat.not_le.mpr hi]
  · simp [hi, Bool.and_comm]

theorem toNat_and_opcodeMask (w : Word) : (w &&& 0xFF00).toNat = w.toNat / 256 * 256 := by
  have := w.isLt
  rw [toNat_and_fieldMask 8 8 (by decide)]
  omega

theorem and_opcodeMask_eq_iff (w : Word) (op : BitVec 4) : w &&& 0xFF00 = packWord op 0 ↔ ∃ b, packWord op b = w := by
  rw [← BitVec.toNat_inj, toNat_and_opcodeMask, packWord_zero_toNat]
  constructor
  · intro h
    exact ⟨immField w, packWord_eq_of_toNat (by rw [immField_toNat, ← h, Nat.div_add_mod'])⟩
  · rintro ⟨b, rfl⟩
    have := b.isLt
    rw [packWord_toNat]
    omega

theorem and_fullMask_eq_iff (w v : Word) : w &&& 0xFFFF = v ↔ v = w := by
  rw [show (0xFFFF : Word) = BitVec.allOnes 16 from rfl, BitVec.and_allOnes]
  exact eq_comm

/-! ## The legal words -/

theorem exists_decode_ok_iff (w : Word) :
    (∃ i, decode w = .ok i) ↔
      (1 ≤ w.toNat / 4096 ∧ w.toNat / 4096 ≤ 8) ∧ w.toNat / 256 % 16 = 0 ∧
      (w.toNat % 256 = 0 ∨ w.toNat / 4096 = 2 ∨ w.toNat / 4096 = 5 ∨ w.toNat / 4096 = 6) := by
  constructor
  · rintro ⟨i, h⟩
    obtain rfl := encode_of_decode h
    rw [← opField_toNat, ← rsvField_toNat, ← immField_toNat]
    cases i <;> simp [encode, opField_packWord, rsvField_packWord, immField_packWord]
  · rintro ⟨⟨h1, h8⟩, hr, hz⟩
    simp only [decode_eq_ok_iff]
    have operand : ∀ op : BitVec 4, op.toNat = w.toNat / 4096 → packWord op (immField w) = w := fun op hop =>
      packWord_eq_of_toNat (by rw [immField_toNat]; omega)
    have plain : ∀ op : BitVec 4, op.toNat = w.toNat / 4096 → w.toNat % 256 = 0 → packWord op 0 = w := fun op hop h0 =>
      BitVec.eq_of_toNat_eq (by rw [packWord_zero_toNat]; omega)
    interval_cases w.toNat / 4096
    · exact ⟨.frameBegin, plain 1 rfl (by omega)⟩
    · exact ⟨.pushByte _, operand 2 rfl⟩
    · exact ⟨.unpack, plain 3 rfl (by omega)⟩
    · exact ⟨.scale, plain 4 rfl (by omega)⟩
    · exact ⟨.readRaw _, operand 5 rfl⟩
    · exact ⟨.readVolt _, operand 6 rfl⟩
    · exact ⟨.readAllVolt, plain 7 rfl (by omega)⟩
    · exact ⟨.readStatus, plain 8 rfl (by omega)⟩

/-! The three checks of R52, as numbers. -/

theorem opcodeLegal_iff (w : Word) : opcodeLegal w = true ↔ 1 ≤ w.toNat / 4096 ∧ w.toNat / 4096 ≤ 8 := by
  simp [opcodeLegal, Nat.shiftRight_eq_div_pow]

theorem reservedLegal_iff (w : Word) : reservedLegal w = true ↔ w.toNat / 256 % 16 = 0 := by
  rw [reservedLegal, beq_iff_eq, ← BitVec.toNat_inj, toNat_and_fieldMask 8 4 (by decide)]
  simp

theorem operandLegal_iff (w : Word) :
    operandLegal w = true ↔
      w.toNat % 256 = 0 ∨ w.toNat / 4096 = 2 ∨ w.toNat / 4096 = 5 ∨ w.toNat / 4096 = 6 := by
  have imm : (w &&& 0x00FF).toNat = w.toNat / 2 ^ 0 % 2 ^ 8 * 2 ^ 0 := toNat_and_fieldMask 0 8 (by decide)
  simp only [operandLegal, Bool.or_eq_true, beq_iff_eq, ← BitVec.toNat_inj, imm, BitVec.toNat_ushiftRight,
    Nat.shiftRight_eq_div_pow, or_assoc]
  simp

theorem wordLegal_iff (w : Word) : wordLegal w = true ↔ ∃ i, decode w = .ok i := by
  rw [exists_decode_ok_iff, ← opcodeLegal_iff, ← reservedLegal_iff, ← operandLegal_iff, wordLegal, Bool.and_eq_true,
    Bool.and_eq_true, and_assoc]

/-! ## Their number -/

theorem isOk_decode_iff (w : Word) : (decode w).isOk = true ↔ ∃ i, decode w = .ok i := by
  cases decode w <;> simp [Except.isOk, Except.toBool]

open Finset in
theorem legal_numbers :
    {n ∈ range 65536 | (decode (BitVec.ofNat 16 n)).isOk} =
      {0x1000, 0x3000, 0x4000, 0x7000, 0x8000} ∪ (Ico 0x2000 0x2100 ∪ (Ico 0x5000 0x5100 ∪ Ico 0x6000 0x6100)) := by
  ext n
  simp only [mem_filter, mem_range, isOk_decode_iff, exists_decode_ok_iff, BitVec.toNat_ofNat, mem_union,
    mem_insert, mem_singleton, mem_Ico]
  omega

open Finset in
theorem card_legal_numbers : #{n ∈ range 65536 | (decode (BitVec.ofNat 16 n)).isOk} = 3 * 256 + 5 := by
  rw [legal_numbers, card_union_of_disjoint, card_union_of_disjoint, card_union_of_disjoint]
  · simp
  all_goals
    simp only [disjoint_left, mem_union, mem_insert, mem_singleton, mem_Ico]
    omega

/-! ## The obligations about words -/

/-- Settles O1: each field of a packed word is the field it was packed from. -/
theorem decodeInvertsEncode : Obligations.DecodeInvertsEncode := decode_encode

/-- Settles O2: the fields of a word that decodes are those of its command's word. -/
theorem encodeInvertsDecode : Obligations.EncodeInvertsDecode := fun _ _ => encode_of_decode

/-- Settles O3: a word decodes to a command iff it is the command's word, and the words of a row with an operand differ in the low
byte only. -/
theorem wordsSelectTheirOpcodeRow : Obligations.WordsSelectTheirOpcodeRow := by
  intro w
  simp only [decode_eq_ok_iff]
  refine ⟨and_fullMask_eq_iff w _, and_opcodeMask_eq_iff w 2, and_fullMask_eq_iff w _, and_fullMask_eq_iff w _,
    and_opcodeMask_eq_iff w 5, and_opcodeMask_eq_iff w 6, and_fullMask_eq_iff w _, and_fullMask_eq_iff w _,
    fun b hb => ?operand, fun hop => ?reserved⟩
  case operand =>
    have lowByte : ∀ op, packWord op b = w → b.toNat = w.toNat % 256 := fun op h => by
      rw [← h, ← immField_toNat, immField_packWord]
    rcases hb with h | h | h
    · exact lowByte _ h
    · exact lowByte _ h
    · exact lowByte _ h
  case reserved =>
    rw [exists_decode_error_iff, exists_decode_ok_iff]
    omega

/-- Settles O5: the legal numbers are three rows of 256 and five single words. -/
theorem legalWordsNumber773 : Obligations.LegalWordsNumber773 := by
  rw [Obligations.LegalWordsNumber773, ← card_legal_numbers, ← Nat.count_eq_card_filter_range, Nat.count]
  simp only [Bool.decide_eq_true]

/-- Settles O6: the legal words are the words of their commands, and the others fail one check each. -/
theorem listedWordsDecodeAsListed : Obligations.ListedWordsDecodeAsListed := by
  simp only [Obligations.ListedWordsDecodeAsListed, decode_eq_ok_iff]
  decide

end Sys2Proof
end

section
/-! One command word at the port (30_encoding.md R50, R52, R55, R57): what a step does with it, and the one response it gives. -/

namespace Sys2Proof.Machine

/-! ## The step -/

theorem step_of_decode_ok {s : State} {w : Word} {rest : List HostEvent} {i : Instr} (h : s.inputs = .command w :: rest)
    (hd : decode w = .ok i) : step s = exec i { s with inputs := rest } := by
  simp [step, acceptEvent_cons h, hd]

theorem step_of_decode_error {s : State} {w : Word} {rest : List HostEvent} {e : DecodeError}
    (h : s.inputs = .command w :: rest) (hd : decode w = .error e) :
    step s = illegalCommand { s with inputs := rest } := by
  simp [step, acceptEvent_cons h, hd]

/-- Settles O8: the decoded command runs in the state with its word taken. -/
theorem stepRunsTheDecodedCommand : Obligations.StepRunsTheDecodedCommand :=
  ⟨fun _ _ _ _ => step_of_decode_ok, fun s w _ => step_of_decode_ok (s := s.withFetchWord 16 w) rfl⟩

theorem illegalCommand_of_running {s : State} (h : s.faulted = false) :
    illegalCommand s = .next (s.takeFault .illegalCmd) :=
  ifRunning_running h _

theorem illegalCommand_of_faulted {s : State} (h : s.faulted = true) (hc : s.fcause ≠ 7) :
    illegalCommand s = .next (s.respond (.fault s.fcause)) :=
  (ifRunning_faulted h _).trans (refuseCommand_of_ne hc)

/-- Settles O4: the three checks are those of the decoder, and a word that fails one is an illegal command. -/
theorem illegalWordRaisesFaultOne : Obligations.IllegalWordRaisesFaultOne := by
  intro s w rest h hc
  have illegal : (¬ ∃ i, decode w = .ok i) → step s = illegalCommand { s with inputs := rest } := fun hd => by
    obtain ⟨e, he⟩ := exists_decode_error_iff.mpr hd
    exact step_of_decode_error h he
  refine ⟨exists_decode_ok_iff w, wordLegal_iff w, fun hd hf => ?running, fun hd hf => ?faulted⟩
  case running => exact (illegal hd).trans (illegalCommand_of_running hf)
  case faulted => exact (illegal hd).trans (illegalCommand_of_faulted hf hc.1)

/-! ## The response -/

/-- The tag of a command's response where it takes no fault and is not refused (30_encoding.md R50). -/
def responseTag : Instr → BitVec 3
  | .frameBegin | .pushByte _ | .unpack | .scale => 0
  | .readRaw _ => 1
  | .readVolt _ => 2
  | .readAllVolt => 3
  | .readStatus => 4

theorem responseTag_rows (i : Instr) :
    (i = .frameBegin ∨ (∃ b, i = .pushByte b) ∨ i = .unpack ∨ i = .scale ↔ responseTag i = 0) ∧
    ((∃ ch, i = .readRaw ch) ↔ responseTag i = 1) ∧ ((∃ ch, i = .readVolt ch) ↔ responseTag i = 2) ∧
    (i = .readAllVolt ↔ responseTag i = 3) ∧ (i = .readStatus ↔ responseTag i = 4) := by
  cases i <;> simp [responseTag]

theorem responseTag_ne_fault (i : Instr) : responseTag i ≠ 5 := by
  cases i <;> simp [responseTag]

theorem tag_toNat_le (r : Response) : r.tag.toNat ≤ 5 := by
  cases r <;> simp [Response.tag]

/-- A command that takes no fault answers once, with the tag of its row. -/
theorem Completes.response {s t : State} {i : Instr} (h : Completes s i t) :
    ∃ r, t.responses = s.responses ++ [r] ∧ t.inputs = s.inputs ∧ t.faulted = s.faulted ∧ r.tag = responseTag i := by
  cases h <;> exact ⟨_, rfl, rfl, rfl, rfl⟩

theorem FaultCondition.ne_readStatus {s : State} {i : Instr} {c : Cause} (h : FaultCondition s i c) : i ≠ .readStatus := by
  rintro rfl
  cases c <;> simp [FaultCondition] at h

/-- The one response of a command: FAULT where it faults or is refused, and otherwise the response of its row. -/
theorem exec_next_response {s t : State} {i : Instr} (h : exec i s = .next t) :
    ∃ r, t.responses = s.responses ++ [r] ∧ t.inputs = s.inputs ∧
      ((r = .fault t.fcause ∧ t.faulted = true ∧ i ≠ .readStatus) ∨
        (r.tag = responseTag i ∧ (t.faulted = true → i = .readStatus))) := by
  rcases exec_next h with ⟨hi, hf, -, rfl⟩ | ⟨rfl, rfl⟩ | ⟨hf, c, hc, rfl⟩ | ⟨hf, hc⟩
  · exact ⟨_, rfl, rfl, .inl ⟨rfl, hf, hi⟩⟩
  · exact ⟨_, rfl, rfl, .inr ⟨rfl, fun _ => rfl⟩⟩
  · exact ⟨_, rfl, rfl, .inl ⟨rfl, rfl, hc.ne_readStatus⟩⟩
  · obtain ⟨r, hr, hin, hft, htag⟩ := hc.response
    exact ⟨r, hr, hin, .inr ⟨htag, fun ht => by simp [hft, hf] at ht⟩⟩

theorem illegalCommand_next_response {s t : State} (h : illegalCommand s = .next t) :
    t.responses = s.responses ++ [.fault t.fcause] ∧ t.inputs = s.inputs ∧ t.faulted = true := by
  rcases illegalCommand_next h with ⟨hf, -, rfl⟩ | ⟨-, rfl⟩
  · exact ⟨rfl, rfl, hf⟩
  · exact ⟨rfl, rfl, rfl⟩

/-- `READ_STATUS` has one word (60_exceptions.md R86). -/
theorem eq_readStatus_iff {w : Word} {i : Instr} (h : decode w = .ok i) : i = .readStatus ↔ w = 0x8000 := by
  have hw : decode w = .ok .readStatus ↔ w = 0x8000 := decode_eq_ok_iff.trans eq_comm
  rw [← hw, h, Except.ok.injEq]

/-- Settles O12: a legal word answers as its command does, and an illegal one with FAULT. -/
theorem everyCommandGetsOneResponse : Obligations.EveryCommandGetsOneResponse := by
  intro s t w rest h ht
  cases hd : decode w with
  | ok i =>
    rw [step_of_decode_ok h hd] at ht
    obtain ⟨r, hr, hin, hcase⟩ := exec_next_response ht
    refine ⟨r, hr, hin, tag_toNat_le r, ?_⟩
    rw [ne_eq, ← eq_readStatus_iff hd]
    rcases hcase with ⟨rfl, hf, hi⟩ | ⟨htag, hi⟩
    · exact ⟨⟨fun _ => ⟨hf, hi⟩, fun _ => rfl⟩, fun hn => absurd rfl hn, fun _ => rfl⟩
    · rw [htag]
      have hne := responseTag_ne_fault i
      exact ⟨⟨fun h5 => absurd h5 hne, fun ⟨hf, hn⟩ => absurd (hi hf) hn⟩, fun _ => ⟨i, rfl, responseTag_rows i⟩,
        fun h5 => absurd h5 hne⟩
  | error e =>
    rw [step_of_decode_error h hd] at ht
    obtain ⟨hr, hin, hf⟩ := illegalCommand_next_response ht
    have hw : w ≠ 0x8000 := by
      rintro rfl
      exact absurd (hd.symm.trans (decode_encode .readStatus)) (by simp)
    exact ⟨_, hr, hin, tag_toNat_le _, ⟨fun _ => ⟨hf, hw⟩, fun _ => rfl⟩, fun hn => absurd rfl hn, fun _ => rfl⟩

/-! ## The value of a RAW response -/

theorem rawValue_toInt (v : BitVec 18) : (rawValue v).toInt = v.toInt :=
  BitVec.toInt_signExtend_of_le (by decide)

/-- Settles O36: sign extension keeps the signed value, and a RAW response holds the extended sample or the sentinel. -/
theorem rawValueIsSignExtended : Obligations.RawValueIsSignExtended := by
  refine ⟨rawValue_toInt, by decide, by decide, by decide, fun s t ch r hf h hr => ?_⟩
  rcases execReadRaw_next h with ⟨hf', -⟩ | ⟨-, hc, rfl⟩ | ⟨-, -, -, rfl⟩ | ⟨-, -, hc, rfl⟩
  · simp [hf] at hf'
  · rw [dif_neg (by omega)]
    simpa using hr.symm
  · simp at hr
  · obtain rfl : rawValue s.sample[ch.toNat] = r := by simpa using hr
    rw [dif_pos hc, rawValue_toInt]

end Sys2Proof.Machine
end

section
/-! The assembler's checks of its operands (30_encoding.md R58). -/

namespace Sys2Proof.Machine

theorem immCommand_eq (make : Byte → Instr) (n : Nat) :
    immCommand make [n] = if n ≤ 255 then some [make (BitVec.ofNat 8 n)] else none := by
  simp [immCommand, immLegal]

theorem assembleCommand_pushByte (ns : List Nat) :
    assembleCommand "PUSH_BYTE".toList ns = immCommand .pushByte ns := rfl

theorem assembleCommand_readRaw (ns : List Nat) :
    assembleCommand "READ_RAW".toList ns = immCommand .readRaw ns := rfl

theorem assembleCommand_readVolt (ns : List Nat) :
    assembleCommand "READ_VOLT".toList ns = immCommand .readVolt ns := rfl

theorem assembleCommand_acquire (ns : List Nat) : assembleCommand "ACQUIRE".toList ns = acquireCommand ns := rfl

theorem acquireLegal_iff (ns : List Nat) : acquireLegal ns = true ↔ ns.length = 18 ∧ ∀ n ∈ ns, n ≤ 255 := by
  simp [acquireLegal, immLegal]

theorem acquireCommand_isSome_iff (ns : List Nat) : (∃ is, acquireCommand ns = some is) ↔ acquireLegal ns = true := by
  cases h : acquireLegal ns <;> simp [acquireCommand, h]

theorem acquireCommand_bytes (bytes : Vector Byte 18) :
    acquireCommand (bytes.toList.map BitVec.toNat) = some (acquire bytes) := by
  have legal : acquireLegal (bytes.toList.map BitVec.toNat) = true := by
    rw [acquireLegal_iff]
    refine ⟨by simp, fun n hn => ?_⟩
    obtain ⟨b, -, rfl⟩ := List.mem_map.mp hn
    exact Nat.le_of_lt_succ b.isLt
  simp [acquireCommand, legal, acquire]

theorem acquire_length (bytes : Vector Byte 18) : (acquire bytes).length = 20 := by
  simp [acquire]

theorem acquire_getElem?_push (bytes : Vector Byte 18) (i : Fin 18) :
    (acquire bytes)[i.val + 1]? = some (.pushByte bytes[i]) := by
  rw [acquire, List.getElem?_cons_succ, List.getElem?_append_left (by simp)]
  simp

theorem acquire_getElem?_last (bytes : Vector Byte 18) : (acquire bytes)[19]? = some .unpack := by
  simp [acquire]

/-- Settles O7: the mnemonics reach the two checks, and the operands of a frame of bytes pass them. -/
theorem assemblerChecksItsOperands : Obligations.AssemblerChecksItsOperands := by
  simp only [Obligations.AssemblerChecksItsOperands, assembleCommand_pushByte, assembleCommand_readRaw,
    assembleCommand_readVolt, assembleCommand_acquire, acquireCommand_isSome_iff]
  exact ⟨fun n => ⟨immCommand_eq _ n, immCommand_eq _ n, immCommand_eq _ n⟩, acquireLegal_iff, fun bytes =>
    ⟨acquireCommand_bytes bytes, acquire_length bytes, rfl, acquire_getElem?_last bytes, acquire_getElem?_push bytes⟩⟩

end Sys2Proof.Machine
end

section
/-! What a command does when it takes a fault or is refused: `exec_next` for these two outcomes, the other way round. -/

namespace Sys2Proof.Machine

theorem exec_of_faulted {s : State} {i : Instr} (hi : i ≠ .readStatus) (hf : s.faulted = true) :
    exec i s = refuseCommand s := by
  cases i with
  | readStatus => exact absurd rfl hi
  | _ => exact if_pos hf

/-- The fault-state refusal under a code of the table (60_exceptions.md R84, R86). -/
theorem exec_of_faulted_of_ne {s : State} {i : Instr} (hi : i ≠ .readStatus) (hf : s.faulted = true) (hc : s.fcause ≠ 7) :
    exec i s = .next (s.respond (.fault s.fcause)) :=
  (exec_of_faulted hi hf).trans (refuseCommand_of_ne hc)

/-- A running block takes each fault under its condition, and the checks of a command exclude each other (60_exceptions.md R84). -/
theorem FaultCondition.exec_eq {s : State} {i : Instr} {c : Cause} (h : FaultCondition s i c) (hf : s.faulted = false) :
    exec i s = .next (s.takeFault c) := by
  cases c with
  | illegalCmd => exact h.elim
  | noFrame =>
    obtain ⟨ho, ⟨b, rfl⟩ | rfl⟩ := h
    · simp [exec, execPushByte, ifRunning_running hf, ho]
    · simp [exec, execUnpack, ifRunning_running hf, ho]
  | frameOverrun =>
    obtain ⟨ho, hc, b, rfl⟩ := h
    simp [exec, execPushByte, ifRunning_running hf, ho, hc]
  | frameIncomplete =>
    obtain ⟨ho, hc, rfl⟩ := h
    simp [exec, execUnpack, ifRunning_running hf, ho, hc]
  | uninitSample =>
    obtain ⟨hv, rfl | ⟨ch, hc, rfl⟩⟩ := h
    · simp [exec, execScale, ifRunning_running hf, hv]
    · simp [exec, execReadRaw, ifRunning_running hf, channelIndex_of_lt hc, hv]
  | uninitVolt =>
    obtain ⟨hv, rfl | ⟨ch, hc, rfl⟩⟩ := h
    · simp [exec, execReadAllVolt, ifRunning_running hf, hv]
    · simp [exec, execReadVolt, ifRunning_running hf, channelIndex_of_lt hc, hv]

end Sys2Proof.Machine
end

section
/-! Frame input: `FRAME_BEGIN` and `PUSH_BYTE` (40_frame_input.md R59, R60). -/

namespace Sys2Proof.Machine

theorem decode_error_of_opcode_one {w : Word} (hop : w.toNat / 4096 = 1) (hw : w ≠ 0x1000) : ∃ e, decode w = .error e := by
  have hne : w.toNat ≠ 4096 := fun h => hw (BitVec.eq_of_toNat_eq h)
  rw [exists_decode_error_iff, exists_decode_ok_iff]
  omega

/-- Settles O18: the opcode has one legal word, and opening a frame needs nothing but a running block. -/
theorem frameBeginOpensAFrame : Obligations.FrameBeginOpensAFrame := by
  refine ⟨rfl, fun s w rest hop hw hf h => ?illegal, fun s hf => Completes.frameBegin.exec_eq hf, fun s hc hf => ?refused,
    _, Completes.frameBegin.exec_eq rfl, by decide⟩
  case illegal =>
    obtain ⟨e, he⟩ := decode_error_of_opcode_one hop hw
    exact (step_of_decode_error h he).trans (illegalCommand_of_running hf)
  case refused => exact exec_of_faulted_of_ne (by simp) hf hc.1

theorem State.storeByte_buf_getElem (s : State) (b : Byte) (h : s.cnt.toNat < 18) (i : Fin 18) :
    (s.storeByte b h).buf[i] = if i.val = s.cnt.toNat then b else s.buf[i] := by
  simp only [storeByte_buf, Fin.getElem_fin, Vector.getElem_set, eq_comm (a := i.val)]

/-- Settles O19: the open check comes before the check for a full frame, and what passes both stores at CNT. -/
theorem pushByteAppendsToTheFrame : Obligations.PushByteAppendsToTheFrame := by
  intro b
  refine ⟨packWord_toNat 2 b, fun s hf ho => ?closed, fun s hf ho hc => ?full, fun s hf ho hc => ?stored,
    _, _, Completes.frameBegin.exec_eq rfl, (Completes.pushByte 0xA5 (by decide) rfl).exec_eq rfl, by decide⟩
  case closed =>
    have hc : FaultCondition s (.pushByte b) .noFrame := ⟨ho, .inl ⟨b, rfl⟩⟩
    exact hc.exec_eq hf
  case full =>
    have hc : FaultCondition s (.pushByte b) .frameOverrun := ⟨ho, hc, b, rfl⟩
    exact hc.exec_eq hf
  case stored =>
    exact ⟨_, (Completes.pushByte b hc ho).exec_eq hf, rfl, s.storeByte_cnt_toNat b hc, s.storeByte_buf_getElem b hc⟩

end Sys2Proof.Machine
end

section
/-! The signed decode of a field, and what `UNPACK` writes (41_unpack.md R67, R68). -/

namespace Sys2Proof.Machine

theorem and_signBit_eq_zero_iff (v : BitVec 18) : v &&& 0x20000 = 0 ↔ v.msb = false := by
  have h : v &&& 0x20000 = if v.getLsbD 17 then 0x20000 else 0 := BitVec.and_twoPow v 17
  rw [h, BitVec.msb_eq_getLsbD_last]
  cases v.getLsbD 17 <;> decide

/-- `DEC18` is the two's-complement value of the field (41_unpack.md R68). -/
theorem dec18_eq_toInt (v : BitVec 18) : dec18 v = v.toInt := by
  have low : ~~~v &&& 0x3FFFF = ~~~v := BitVec.and_allOnes
  have := v.isLt
  rw [dec18, low, BitVec.toInt_eq_msb_cond, BitVec.toNat_not]
  cases h : v.msb
  · rw [if_pos ((and_signBit_eq_zero_iff v).mpr h)]
    rfl
  · rw [if_neg fun hz => by simp [(and_signBit_eq_zero_iff v).mp hz] at h, if_pos rfl]
    omega

@[simp] theorem unpackedSamples_getElem (buf : Vector Byte 18) (k : Nat) (h : k < 8) :
    (unpackedSamples buf)[k] = field buf ⟨k, h⟩ := by
  simp [unpackedSamples, dec18_eq_toInt]

end Sys2Proof.Machine
end

section
/-! A whole frame delivered by the words of `ACQUIRE` (40_frame_input.md R61, R62, 30_encoding.md R58). -/

namespace Sys2Proof.Machine

/-! ## A run of commands -/

/-- A run takes the command first at the port and goes on from the state it leaves. -/
theorem run_of_completes {s t : State} {i : Instr} {rest : List HostEvent} (h : s.inputs = .command (encode i) :: rest)
    (hf : s.faulted = false) (hc : Completes { s with inputs := rest } i t) (k : Nat) :
    Host.Core.run core (k + 1) s = Host.Core.run core k t := by
  have hs : core.step s = .next t := (step_of_decode_ok h (decode_encode i)).trans (hc.exec_eq hf)
  simp [Host.Core.run, hs]

/-- The host's events for a list of commands. -/
def wordsOf (is : List Instr) : List HostEvent := is.map fun i => .command (encode i)

/-! ## The frame as it fills -/

/-- `buf` with its first `n` bytes replaced by those of the new frame. -/
def filledFrame (buf bytes : Vector Byte 18) (n : Nat) : Vector Byte 18 :=
  Vector.ofFn fun i => if i.val < n then bytes[i] else buf[i]

theorem filledFrame_zero (buf bytes : Vector Byte 18) : filledFrame buf bytes 0 = buf := by
  ext i hi : 1
  simp [filledFrame]

theorem filledFrame_full (buf bytes : Vector Byte 18) : filledFrame buf bytes 18 = bytes := by
  ext i hi : 1
  simp [filledFrame]

theorem filledFrame_set (buf bytes : Vector Byte 18) {n : Nat} (hn : n < 18) :
    (filledFrame buf bytes n).set n bytes[n] = filledFrame buf bytes (n + 1) := by
  ext i hi : 1
  rcases Nat.lt_trichotomy i n with h | rfl | h
  · simp [filledFrame, h, h.ne', h.le]
  · simp [filledFrame]
  · simp [filledFrame, h.ne, h.not_gt, h.not_ge]

/-- `s` after `FRAME_BEGIN` and the first `n` bytes of a frame, with `events` still at the port. -/
def State.acquiring (s : State) (bytes : Vector Byte 18) (n : Nat) (events : List HostEvent) : State :=
  { s with buf := filledFrame s.buf bytes n, cnt := BitVec.ofNat 5 n, isOpen := true, inputs := events,
           responses := s.responses ++ List.replicate (n + 1) .none }

@[simp] theorem State.acquiring_faulted (s : State) (bytes : Vector Byte 18) (n : Nat) (events : List HostEvent) :
    (s.acquiring bytes n events).faulted = s.faulted := by
  simp only [State.acquiring]

@[simp] theorem State.acquiring_accept (s : State) (bytes : Vector Byte 18) (n : Nat) (events rest : List HostEvent) :
    { s.acquiring bytes n events with inputs := rest } = s.acquiring bytes n rest := by
  simp only [State.acquiring]

theorem State.storeByte_eq {s : State} {n : Nat} (hs : s.cnt = BitVec.ofNat 5 n) (hn : n < 18) (b : Byte)
    (h : s.cnt.toNat < 18) :
    s.storeByte b h = { s with buf := s.buf.set n b, cnt := BitVec.ofNat 5 (n + 1) } := by
  have hcnt : s.cnt.toNat = n := by
    rw [hs, BitVec.toNat_ofNat]
    omega
  subst hcnt
  simp [State.storeByte, BitVec.ofNat_add]

section
variable (s : State) (bytes : Vector Byte 18) (rest : List HostEvent)

theorem completes_frameBegin_acquiring :
    Completes { s with inputs := rest } .frameBegin (s.acquiring bytes 0 rest) := by
  rw [State.acquiring, filledFrame_zero]
  exact .frameBegin

theorem storeByte_acquiring {n : Nat} (hn : n < 18) (h : (s.acquiring bytes n rest).cnt.toNat < 18) :
    ((s.acquiring bytes n rest).storeByte bytes[n] h).respond .none = s.acquiring bytes (n + 1) rest := by
  rw [State.storeByte_eq rfl hn]
  simp only [State.acquiring, State.respond, filledFrame_set _ _ hn, List.append_assoc, ← List.replicate_succ']

theorem completes_pushByte_acquiring {n : Nat} (hn : n < 18) :
    Completes (s.acquiring bytes n rest) (.pushByte bytes[n]) (s.acquiring bytes (n + 1) rest) := by
  have hc : (s.acquiring bytes n rest).cnt.toNat < 18 := by
    rw [State.acquiring, BitVec.toNat_ofNat]
    omega
  rw [← storeByte_acquiring s bytes rest hn hc]
  exact .pushByte bytes[n] hc rfl

/-- `run_of_completes` while a frame fills: the command's word leaves the port and nothing else of `acquiring` changes. -/
theorem run_acquiring_of_completes {n : Nat} {i : Instr} {t : State} (hf : s.faulted = false)
    (hc : Completes (s.acquiring bytes n rest) i t) (k : Nat) :
    Host.Core.run core (k + 1) (s.acquiring bytes n (.command (encode i) :: rest)) = Host.Core.run core k t :=
  run_of_completes rfl (by simp [hf]) (by rwa [State.acquiring_accept]) k

/-- The first `n` pushes of a frame, whatever stands behind them at the port. -/
theorem run_acquiring (hf : s.faulted = false) {n : Nat} (hn : n ≤ 18) (k : Nat) :
    Host.Core.run core (n + k) (s.acquiring bytes 0 (wordsOf (bytes.toList.map .pushByte) ++ rest)) =
      Host.Core.run core k (s.acquiring bytes n (wordsOf ((bytes.toList.drop n).map .pushByte) ++ rest)) := by
  induction n generalizing k with
  | zero => rw [Nat.zero_add, List.drop_zero]
  | succ n ih =>
    have hlt : n < bytes.toList.length := by simpa using hn
    have hdrop : wordsOf ((bytes.toList.drop n).map .pushByte) =
        .command (encode (.pushByte bytes[n])) :: wordsOf ((bytes.toList.drop (n + 1)).map .pushByte) := by
      simp [List.drop_eq_getElem_cons hlt, wordsOf]
    rw [Nat.succ_add_eq_add_succ, ih (Nat.le_of_lt hn), hdrop, List.cons_append,
      run_acquiring_of_completes s bytes _ hf (completes_pushByte_acquiring s bytes _ hn)]

/-- After 18 pushes the new frame fills BUF, and `UNPACK` consumes it. -/
theorem completes_unpack_acquiring :
    Completes (s.acquiring bytes 18 rest) .unpack { s with
      buf := bytes, sample := unpackedSamples bytes, sv := true, vc := false, isOpen := false, cnt := 0, inputs := rest,
      responses := s.responses ++ List.replicate 20 .none } := by
  have hc : 18 ≤ (s.acquiring bytes 18 rest).cnt.toNat := by simp [State.acquiring]
  have h := Completes.unpack (s := s.acquiring bytes 18 rest) rfl hc
  simpa only [State.acquiring, filledFrame_full, State.respond, State.writeSamples, State.markUnpacked,
    List.append_assoc, ← List.replicate_succ'] using h

end

/-- Settles O21: `FRAME_BEGIN` starts the frame, each push extends it by its next byte, and `UNPACK` finds it complete. -/
theorem acquireDeliversTheFrame : Obligations.AcquireDeliversTheFrame := by
  intro s bytes rest hf h
  have hi : s.inputs = .command (encode .frameBegin) :: (wordsOf (bytes.toList.map .pushByte) ++
      .command (encode .unpack) :: rest) := by
    simpa [acquire, wordsOf] using h
  refine ⟨unpackedSamples bytes, fun k => by simp [dec18_eq_toInt], ?_⟩
  rw [run_of_completes hi hf (completes_frameBegin_acquiring s bytes _) 19,
    run_acquiring s bytes _ hf (le_refl 18) 1, List.drop_of_length_le (by simp)]
  exact run_acquiring_of_completes s bytes rest hf (completes_unpack_acquiring s bytes rest) 0

end Sys2Proof.Machine
end

section
/-! The stream value of a frame and its windows (41_unpack.md R63 to R66). -/

namespace Sys2Proof.Machine

/-! ## The stream value, byte by byte -/

/-- The first `n` bytes of a frame as one number, `BUF[0]` its most significant byte. -/
def leadingBytes (buf : Vector Byte 18) : (n : Nat) → n ≤ 18 → BitVec (8 * n)
  | 0, _ => 0
  | n + 1, h => leadingBytes buf n (Nat.le_of_succ_le h) ++ buf[n]

theorem leadingBytes_all (buf : Vector Byte 18) : leadingBytes buf 18 le_rfl = streamValue buf := by
  simp only [leadingBytes, streamValue]
  rw [BitVec.zero_width_append]
  rfl

theorem leadingBytes_succ_toNat (buf : Vector Byte 18) (n : Nat) (h : n + 1 ≤ 18) :
    (leadingBytes buf (n + 1) h).toNat = (leadingBytes buf n (Nat.le_of_succ_le h)).toNat * 2 ^ 8 + buf[n].toNat := by
  rw [leadingBytes, BitVec.toNat_append, ← Nat.shiftLeft_add_eq_or_of_lt buf[n].isLt, Nat.shiftLeft_eq]

theorem leadingBytes_toNat (buf : Vector Byte 18) (n : Nat) (h : n ≤ 18) :
    (leadingBytes buf n h).toNat = ∑ i : Fin n, buf[i.val].toNat * 2 ^ (8 * (n - 1 - i.val)) := by
  induction n with
  | zero => rfl
  | succ n ih =>
    rw [leadingBytes_succ_toNat, ih, Fin.sum_univ_castSucc, Finset.sum_mul]
    congr 1
    · refine Finset.sum_congr rfl fun i _ => ?_
      have hexp : 8 * (n + 1 - 1 - i.val) = 8 * (n - 1 - i.val) + 8 := by omega
      simp only [Fin.val_castSucc, hexp, pow_add, mul_assoc]
    · simp

/-- Stream positions count from the most significant bit (20_memory.md R34). -/
theorem leadingBytes_getLsbD (buf : Vector Byte 18) (n : Nat) (h : n ≤ 18) (p : Nat) (hp : p < 8 * n) :
    (leadingBytes buf n h).getLsbD (8 * n - 1 - p) = streamBit buf ⟨p, by omega⟩ := by
  induction n with
  | zero => omega
  | succ n ih =>
    rw [leadingBytes, BitVec.getLsbD_append]
    rcases Nat.lt_or_ge p (8 * n) with hlt | hge
    · rw [if_neg (by omega), ← ih (by omega) hlt]
      congr 1
      omega
    · obtain ⟨r, rfl⟩ := Nat.exists_eq_add_of_le hge
      have hdiv : (8 * n + r) / 8 = n := by omega
      have hbit : 8 * (n + 1) - 1 - (8 * n + r) = 7 - (8 * n + r) % 8 := by omega
      simp only [streamBit, hdiv, hbit]
      rw [if_pos (by omega)]

theorem streamValue_getLsbD (buf : Vector Byte 18) (p : Fin 144) :
    (streamValue buf).getLsbD (143 - p.val) = streamBit buf p := by
  rw [← leadingBytes_all]
  exact leadingBytes_getLsbD buf 18 le_rfl p.val p.isLt

/-- Settles O22: by induction on the leading bytes, each of which shifts those before it by eight bits. -/
theorem streamValueIsTheWeightedByteSum : Obligations.StreamValueIsTheWeightedByteSum := by
  intro buf
  refine ⟨?_, streamValue_getLsbD buf⟩
  rw [← leadingBytes_all]
  exact leadingBytes_toNat buf 18 le_rfl

/-! ## A field -/

theorem field_getLsbD (buf : Vector Byte 18) (k : Fin 8) (j : Fin 18) :
    (field buf k).getLsbD (17 - j.val) = streamBit buf ⟨18 * k.val + j.val, by omega⟩ := by
  have hpos : 126 - 18 * k.val + (17 - j.val) = 143 - (18 * k.val + j.val) := by omega
  rw [← streamValue_getLsbD, field, BitVec.getLsbD_extractLsb', hpos, decide_eq_true (by omega), Bool.true_and]

/-- The same bits, counted from the least significant one. -/
theorem field_getLsbD_of_lt (buf : Vector Byte 18) (k : Fin 8) {m : Nat} (hm : m < 18) :
    (field buf k).getLsbD m = streamBit buf ⟨18 * k.val + (17 - m), by omega⟩ := by
  rw [← field_getLsbD buf k ⟨17 - m, by omega⟩, Nat.sub_sub_self (Nat.le_of_lt_succ hm)]

/-- Settles O23: the mask keeps the low 18 bits, as the window does. -/
theorem fieldIsTheChannelWindow : Obligations.FieldIsTheChannelWindow := by
  refine fun buf k => ⟨?_, field_getLsbD buf k⟩
  rw [field, BitVec.extractLsb'_toNat]
  exact (Nat.and_two_pow_sub_one_eq_mod _ 18).symm

/-- A field that starts `r` bits into byte `i` takes the rest of that byte, the next byte, and the top of the third. -/
theorem field_toNat_of_start (buf : Vector Byte 18) (k : Fin 8) {i r : Nat} (hk : 18 * k.val = 8 * i + r) (hr : r ≤ 6)
    (hi : i + 2 < 18) :
    (field buf k).toNat =
      ((buf[i].toNat &&& 2 ^ (8 - r) - 1) <<< (10 + r)) ||| (buf[i + 1].toNat <<< (2 + r)) |||
        (buf[i + 2].toNat >>> (6 - r)) := by
  apply Nat.eq_of_testBit_eq
  intro m
  simp only [Nat.testBit_or, Nat.testBit_and, Nat.testBit_shiftLeft, Nat.testBit_shiftRight, Nat.testBit_two_pow_sub_one,
    BitVec.testBit_toNat]
  rcases Nat.lt_or_ge m 18 with hm | hm
  · simp only [field_getLsbD_of_lt buf k hm, streamBit, hk]
    rcases Nat.lt_or_ge m (2 + r) with hlow | hlow
    · have hbyte : (8 * i + r + (17 - m)) / 8 = i + 2 := by omega
      have hoff : 7 - (8 * i + r + (17 - m)) % 8 = 6 - r + m := by omega
      have hfirst : ¬ 10 + r ≤ m := by omega
      simp [hbyte, hoff, hlow.not_ge, hfirst]
    · have hlast : 8 ≤ 6 - r + m := by omega
      rcases Nat.lt_or_ge m (10 + r) with hmid | hmid
      · have hbyte : (8 * i + r + (17 - m)) / 8 = i + 1 := by omega
        have hoff : 7 - (8 * i + r + (17 - m)) % 8 = m - (2 + r) := by omega
        simp [hbyte, hoff, hlow, hmid.not_ge, hlast, BitVec.getLsbD_of_ge]
      · have hbyte : (8 * i + r + (17 - m)) / 8 = i := by omega
        have hoff : 7 - (8 * i + r + (17 - m)) % 8 = m - (10 + r) := by omega
        have hsecond : 8 ≤ m - (2 + r) := by omega
        have hmask : m - (10 + r) < 8 - r := by omega
        simp [hbyte, hoff, hmid, hlast, hsecond, hmask, BitVec.getLsbD_of_ge]
  · have hlast : 8 ≤ 6 - r + m := by omega
    have hsecond : 8 ≤ m - (2 + r) := by omega
    have hmask : ¬ m - (10 + r) < 8 - r := by omega
    simp [hm, hlast, hsecond, hmask, BitVec.getLsbD_of_ge]

/-- Settles O24: channel `4 * h + c` starts `2 * c` bits into byte `9 * h + 2 * c`. -/
theorem fieldsHaveTheirByteForms : Obligations.FieldsHaveTheirByteForms := by
  intro buf h
  refine ⟨?_, field_toNat_of_start buf _ (i := 9 * h.val + 2) (r := 2) (by simp only; omega) (by decide) (by omega),
    field_toNat_of_start buf _ (i := 9 * h.val + 4) (r := 4) (by simp only; omega) (by decide) (by omega),
    field_toNat_of_start buf _ (i := 9 * h.val + 6) (r := 6) (by simp only; omega) (by decide) (by omega)⟩
  rw [field_toNat_of_start buf _ (i := 9 * h.val) (r := 0) (by simp only; omega) (by decide) (by omega),
    Nat.and_two_pow_sub_one_eq_mod, Nat.mod_eq_of_lt (BitVec.isLt _)]
  rfl

/-! ## The halves of a frame -/

/-- A field depends on the bytes of its window only. -/
theorem field_congr {a b : Vector Byte 18} {k : Fin 8}
    (h : ∀ i : Fin 18, 18 * k.val / 8 ≤ i.val → i.val ≤ (18 * k.val + 17) / 8 → a[i] = b[i]) : field a k = field b k := by
  apply BitVec.eq_of_getLsbD_eq
  intro m hm
  rw [field_getLsbD_of_lt a k hm, field_getLsbD_of_lt b k hm]
  exact congrArg (BitVec.getLsbD · _) (h ⟨(18 * k.val + (17 - m)) / 8, by omega⟩ (by simp only; omega) (by simp only; omega))

/-- The first `n` fields of a frame as one number, channel 0 at the top. -/
def leadingFields (buf : Vector Byte 18) : (n : Nat) → n ≤ 8 → BitVec (18 * n)
  | 0, _ => 0
  | n + 1, h => leadingFields buf n (Nat.le_of_succ_le h) ++ field buf ⟨n, h⟩

theorem leadingFields_eq (buf : Vector Byte 18) (n : Nat) (h : n ≤ 8) :
    leadingFields buf n h = (streamValue buf).extractLsb' (144 - 18 * n) (18 * n) := by
  induction n with
  | zero => exact BitVec.eq_of_toNat_eq (by simp [leadingFields])
  | succ n ih =>
    have hstart : 126 - 18 * n = 144 - 18 * (n + 1) := by omega
    have hadj : 144 - 18 * n = 144 - 18 * (n + 1) + 18 := by omega
    rw [leadingFields, ih, field, hstart]
    exact BitVec.extractLsb'_append_extractLsb'_eq_extractLsb' hadj

theorem leadingFields_all (buf : Vector Byte 18) : leadingFields buf 8 le_rfl = streamValue buf :=
  (leadingFields_eq buf 8 le_rfl).trans BitVec.extractLsb'_eq_self

/-- Settles O25: no window crosses from byte 8 to byte 9, and each window starts where the one before it ends. -/
theorem halvesOfTheFrameAreIndependent : Obligations.HalvesOfTheFrameAreIndependent := by
  refine ⟨fun a b h k hk => field_congr fun i _ hi => h i (by omega),
    fun a b h k hk => field_congr fun i hi _ => h i (by omega), fun a => ?_⟩
  rw [← leadingFields_all]
  simp only [leadingFields]
  rw [BitVec.zero_width_append]
  rfl

end Sys2Proof.Machine
end

section
/-! The bijection of the signed decode, and the command `UNPACK` (41_unpack.md R67, R68). -/

namespace Sys2Proof.Machine

theorem not_and_fieldMask_toNat (v : BitVec 18) : (~~~v &&& 0x3FFFF).toNat = 2 ^ 18 - 1 - v.toNat := by
  rw [← BitVec.toNat_not]
  exact congrArg _ BitVec.and_allOnes

/-- Settles O26: the two branches are the definition's; the rest is the two's-complement value, of which 18 bits hold each
once. -/
theorem signedDecodeIsTwosComplement : Obligations.SignedDecodeIsTwosComplement := by
  refine ⟨fun v => ⟨fun h => if_pos h, fun h => ?negative, ?closed, ?least, ?greatest⟩, fun n hlo hhi => ?once,
    by decide, by decide, by decide, by decide⟩
  case negative => rw [dec18, if_neg h, not_and_fieldMask_toNat]
  case closed =>
    rw [dec18_eq_toInt, BitVec.toInt_eq_msb_cond, BitVec.msb_eq_getLsbD_last]
    cases v.getLsbD 17 <;> simp
  case least => exact dec18_eq_toInt v ▸ BitVec.le_toInt v
  case greatest => exact dec18_eq_toInt v ▸ Int.le_of_lt_add_one BitVec.toInt_lt
  case once =>
    have hn : (BitVec.ofInt 18 n).toInt = n := BitVec.toInt_ofInt_eq_self (by decide) hlo (Int.lt_add_one_of_le hhi)
    refine ⟨BitVec.ofInt 18 n, (dec18_eq_toInt _).trans hn, fun v hv => ?_⟩
    rw [← BitVec.toInt_inj, hn, ← hv, dec18_eq_toInt]

theorem exec_unpack_of_closed {s : State} (hf : s.faulted = false) (ho : s.isOpen = false) :
    exec .unpack s = .next (s.takeFault .noFrame) :=
  FaultCondition.exec_eq (c := .noFrame) ⟨ho, .inr rfl⟩ hf

theorem exec_unpack_of_full {s : State} (hf : s.faulted = false) (ho : s.isOpen = true) (hc : s.cnt = 18) :
    exec .unpack s = .next (((s.writeSamples (unpackedSamples s.buf)).markUnpacked).respond .none) :=
  (Completes.unpack ho (by simp [hc])).exec_eq hf

/-- Settles O27: the open check comes before the completeness check, and what passes both closes the frame. -/
theorem unpackDecodesEveryChannel : Obligations.UnpackDecodesEveryChannel := by
  refine ⟨rfl, fun s hf ho => exec_unpack_of_closed hf ho, fun s hf ho hc => ?incomplete, fun s hf ho hc => ?effect,
    fun s t hf ho hc hb h => ?sample⟩
  case incomplete => exact FaultCondition.exec_eq (c := .frameIncomplete) ⟨ho, hc, rfl⟩ hf
  case effect =>
    exact ⟨_, exec_unpack_of_full hf ho hc, fun k => by simp [dec18_eq_toInt], rfl, _, exec_unpack_of_closed hf rfl, rfl⟩
  case sample =>
    obtain rfl := Host.Outcome.next.inj ((exec_unpack_of_full hf ho hc).symm.trans h)
    show (unpackedSamples s.buf).toList.map BitVec.toInt = _
    rw [hb]
    decide

end Sys2Proof.Machine
end

section
/-! The command `SCALE` (42_scale.md R73, R74). -/

namespace Sys2Proof.Machine

theorem exec_scale_of_valid {s : State} (hf : s.faulted = false) (hv : s.sv = true) :
    exec .scale s = .next (((s.writeVolts (scaledVolts s.params.voltageFormat s.sample)).markScaled).respond .none) :=
  (Completes.scale hv).exec_eq hf

/-- Settles O28: the check of SV is the only one, and what passes it writes each voltage from its own sample. -/
theorem scaleConvertsEverySample : Obligations.ScaleConvertsEverySample := by
  refine ⟨rfl, fun s hf hv => ?fault, fun s hf hv => ⟨_, exec_scale_of_valid hf hv, rfl, fun k => ?voltage,
    fun hF h0 => ?exampleRow⟩⟩
  case fault => exact FaultCondition.exec_eq (c := .uninitSample) ⟨hv, .inl rfl⟩ hf
  case voltage => simp
  case exampleRow =>
    have h : scaleV .binary32 65535 = .binary32 0x40200000 := by decide +kernel
    simpa [hF, h0] using h

/-- The VOLT registers of a running block hold the conversions of its samples; a block in the fault state writes neither. -/
def State.VoltsConverted (s : State) : Prop :=
  s.faulted = false → s.volt = scaledVolts s.params.voltageFormat s.sample

theorem voltsConverted_of_exec_scale {s t : State} (h : exec .scale s = .next t) : t.VoltsConverted := by
  rcases execScale_next h with ⟨hf, -, rfl⟩ | ⟨-, -, rfl⟩ | ⟨-, -, rfl⟩
  · simp [State.VoltsConverted, hf]
  · simp [State.VoltsConverted]
  · simp [State.VoltsConverted]

/-- Only `UNPACK` writes SAMPLE, and a `SCALE` writes the conversions that VOLT holds already. -/
theorem exec_keeps_voltsConverted {s t : State} {i : Instr} (hs : s.VoltsConverted) (hi : i ≠ .unpack)
    (h : exec i s = .next t) : t.VoltsConverted ∧ t.volt = s.volt := by
  rcases exec_next h with ⟨-, -, -, rfl⟩ | ⟨-, rfl⟩ | ⟨-, c, -, rfl⟩ | ⟨hf, hc⟩
  · exact ⟨hs, rfl⟩
  · exact ⟨hs, rfl⟩
  · exact ⟨by simp [State.VoltsConverted], rfl⟩
  · cases hc with
    | unpack => exact absurd rfl hi
    | scale => exact ⟨voltsConverted_of_exec_scale h, (hs hf).symm⟩
    | _ => exact ⟨hs, rfl⟩

theorem execAll_keeps_voltsConverted {is : List Instr} (hi : Instr.unpack ∉ is) {s t : State} (hs : s.VoltsConverted)
    (h : execAll is s = .next t) : t.VoltsConverted ∧ t.volt = s.volt := by
  induction is generalizing s with
  | nil =>
    obtain rfl := Host.Outcome.next.inj h
    exact ⟨hs, rfl⟩
  | cons i is ih =>
    obtain ⟨hne, hrest⟩ : .unpack ≠ i ∧ .unpack ∉ is := by simpa using hi
    rw [execAll] at h
    split at h
    · rename_i r hr
      obtain ⟨hconv, hvolt⟩ := exec_keeps_voltsConverted hs hne.symm hr
      exact (ih hrest hconv h).imp_right (·.trans hvolt)
    · cases h
    · cases h

/-- Settles O34: the first `SCALE` leaves the conversions of the samples, and no command but `UNPACK` makes them stale. -/
theorem scaleTwiceGivesTheSameVoltages : Obligations.ScaleTwiceGivesTheSameVoltages := by
  intro s t u v between hi hst htu huv
  obtain ⟨hu, hvolt⟩ := execAll_keeps_voltsConverted hi (voltsConverted_of_exec_scale hst) htu
  exact (exec_keeps_voltsConverted hu (by simp) huv).2.trans hvolt

end Sys2Proof.Machine
end

section
/-! `SCALEV` is one rounding (42_scale.md R72). The product `s * 2.5` is a value of either format, so the first rounding does
nothing, and the consequences of R72 are what `RNE_F` answers at `s / 26214`. -/

namespace Sys2Proof.Machine

/-! ## Rounding within the finite range -/

/-- The finite range of format F. -/
def InRange (F : VoltageFormat) (x : Rat) : Prop := |x| ≤ patternValue F (infinityPattern F - 1)

theorem inRange_of_abs_le {F : VoltageFormat} {x : Rat} (h : |x| ≤ 2 ^ 20) : InRange F x := by
  refine h.trans ?_
  cases F <;> decide +kernel

theorem isNearestEven_rne {F : VoltageFormat} {x : Rat} (hx : InRange F x) : IsNearestEven F |x| (rne F x).pattern := by
  rw [pattern_rne, ← num_natAbs_div_den]
  exact isNearestEven_magnitudePattern x.den_pos ((num_natAbs_div_den x).trans_le hx)

theorem toRat?_rne_of_inRange {F : VoltageFormat} {x : Rat} (hx : InRange F x) :
    (rne F x).toRat? = some (rneValue F x) :=
  toRat?_rne (pattern_rne F x ▸ (isNearestEven_rne hx).finite)

theorem rneValue_nearest {F : VoltageFormat} {x : Rat} (hx : InRange F x) {v : Voltage} {z : Rat} (hv : v.format = F)
    (hz : v.toRat? = some z) : |x - rneValue F x| ≤ |x - z| := by
  obtain ⟨-, y, hy, nearest, -⟩ := rneIsNearestTiesToEven F x hx
  obtain rfl := Option.some.inj ((toRat?_rne_of_inRange hx).symm.trans hy)
  exact nearest v z hv hz

/-- Were the nearest values u to x and w to y in the other order, their midpoint would lie both below x and above y. -/
theorem rneValue_mono {F : VoltageFormat} {x y : Rat} (hx : InRange F x) (hy : InRange F y) (h : x ≤ y) :
    rneValue F x ≤ rneValue F y := by
  rcases h.eq_or_lt with rfl | hlt
  · exact le_rfl
  · have nearX := sq_le_sq.mpr (rneValue_nearest hx (format_rne F y) (toRat?_rne_of_inRange hy))
    have nearY := sq_le_sq.mpr (rneValue_nearest hy (format_rne F x) (toRat?_rne_of_inRange hx))
    by_contra hgt
    have := mul_pos (sub_pos.mpr hlt) (sub_pos.mpr (not_le.mp hgt))
    linarith

/-- A significand below `2^precision` at any step of the format makes a value of the format: the converse of
`exists_significand`. -/
theorem exists_patternValue_eq (F : VoltageFormat) {k : Nat} (hk : k < 2 ^ precision F) (t : Nat) :
    ∃ p, patternValue F p = k * 2 ^ (leastExponent F + t) := by
  induction t generalizing k with
  | zero => exact ⟨_, patternValue_eq F (by omega) hk.le (.inl (by omega))⟩
  | succ t ih =>
    rcases Nat.lt_or_ge k (2 ^ (precision F - 1)) with h | h
    · obtain ⟨p, hp⟩ := ih (k := 2 * k) (by have := two_pow_precision F; omega)
      refine ⟨p, hp.trans ?_⟩
      push_cast
      rw [← add_assoc, zpow_add_one₀ two_ne_zero]
      ring
    · exact ⟨_, patternValue_eq F (by omega) hk.le (.inr h)⟩

/-- A value of the format is not rounded. -/
theorem rneValue_of_representable {F : VoltageFormat} {x : Rat} (hx : InRange F x) {k : Nat} {e : Int}
    (hk : k < 2 ^ precision F) (he : leastExponent F ≤ e) (hkx : |x| = k * 2 ^ e) : rneValue F x = x := by
  obtain ⟨t, rfl⟩ := Int.le.dest he
  obtain ⟨p, hp⟩ := exists_patternValue_eq F hk t
  have near := (isNearestEven_rne hx).nearest p
  rw [hp, ← hkx, sub_self, abs_zero, pattern_rne, ← abs_sub_rneValue] at near
  exact (sub_eq_zero.mp (abs_nonpos_iff.mp near)).symm

theorem abs_half (i : Int) : |(i : Rat) / 2| = i.natAbs / 2 := by
  rw [abs_div, abs_two, Nat.cast_natAbs, Int.cast_abs]

theorem inRange_half {F : VoltageFormat} {i : Int} (h : i.natAbs ≤ 2 ^ 20) : InRange F (i / 2) := by
  have : (i.natAbs : Rat) ≤ 2 ^ 20 := by exact_mod_cast h
  exact inRange_of_abs_le (by rw [abs_half]; linarith)

/-- Half an integer of at most 20 bits is a value of either format. -/
theorem rneValue_half (F : VoltageFormat) {i : Int} (h : i.natAbs ≤ 2 ^ 20) : rneValue F (i / 2) = i / 2 := by
  have hk : i.natAbs < 2 ^ precision F := h.trans_lt (by cases F <;> decide)
  refine rneValue_of_representable (e := -1) (inRange_half h) hk (by cases F <;> decide) ?_
  rw [abs_half, zpow_neg_one, div_eq_mul_inv]

/-- A magnitude of at least the least normal value has a full significand. -/
theorem two_pow_le_pattern_rne {F : VoltageFormat} {x : Rat} (hx : 2 ^ (precision F - 1) * 2 ^ leastExponent F ≤ |x|) :
    2 ^ (precision F - 1) ≤ (rne F x).pattern := by
  have hn : 0 < x.num.natAbs := by
    have : 0 < |x| := lt_of_lt_of_le (by positivity) hx
    simpa using this
  have hm : 2 ^ (precision F - 1) ≤ ulpMultiple F x.num.natAbs x.den := by
    rcases ulp_le F hn x.den_pos with h | h
    · exact le_ulpMultiple F x.den_pos (by rw [h, num_natAbs_div_den]; exact_mod_cast hx)
    · exact le_ulpMultiple F x.den_pos (by exact_mod_cast h)
  rw [pattern_rne, magnitudePattern_of_pos F hn]
  exact le_min (by cases F <;> decide) (hm.trans (Nat.le_add_left _ _))

theorem pattern_rne_neg (F : VoltageFormat) (x : Rat) : (rne F (-x)).pattern = (rne F x).pattern := by
  simp [pattern_rne]

theorem negative_rne_eq_decide (F : VoltageFormat) (x : Rat) : (rne F x).negative = decide (x < 0) := by
  simp [negative_rne]

/-! ## The voltage of a sample -/

theorem natAbs_toInt_le (s : BitVec 18) : s.toInt.natAbs ≤ 131072 := by
  have hlo := s.le_toInt
  have hhi := s.toInt_lt
  omega

/-- Steps 1 and 2 of R72: the product is exact, and `2.5 / 65535` is `1 / 26214`. -/
theorem scaleV_eq_rne (F : VoltageFormat) {s : Int} (hs : s.natAbs ≤ 131072) : scaleV F s = rne F (s / 26214) := by
  have hprod : (s : Rat) * vref = (5 * s : Int) / 2 := by
    push_cast [vref]
    ring
  have h5 : (5 * s).natAbs ≤ 2 ^ 20 := by omega
  have hquot : ((5 * s : Int) : Rat) / 2 / denom = s / 26214 := by
    push_cast [denom]
    ring
  rw [scaleV, divideRounded, hprod, toRat?_rne_of_inRange (inRange_half h5), rneValue_half F h5]
  show rne F _ = _
  rw [hquot]

theorem abs_div_26214 (s : Int) : |(s : Rat) / 26214| = s.natAbs / 26214 := by
  rw [abs_div, Nat.abs_ofNat, Nat.cast_natAbs, Int.cast_abs]

theorem abs_div_26214_le {s : Int} (hs : s.natAbs ≤ 131072) : |(s : Rat) / 26214| ≤ 6 := by
  have : (s.natAbs : Rat) ≤ 131072 := by exact_mod_cast hs
  rw [abs_div_26214]
  linarith

theorem inRange_div_26214 (F : VoltageFormat) {s : Int} (hs : s.natAbs ≤ 131072) : InRange F (s / 26214) :=
  inRange_of_abs_le ((abs_div_26214_le hs).trans (by norm_num))

theorem least_normal_le_div_26214 (F : VoltageFormat) {s : Int} (hs : s ≠ 0) :
    2 ^ (precision F - 1) * 2 ^ leastExponent F ≤ |(s : Rat) / 26214| := by
  have h1 : (1 : Rat) ≤ s.natAbs := by exact_mod_cast Int.natAbs_pos.mpr hs
  calc (2 : Rat) ^ (precision F - 1) * 2 ^ leastExponent F ≤ 1 / 26214 := by cases F <;> decide +kernel
    _ ≤ s.natAbs / 26214 := by linarith
    _ = |(s : Rat) / 26214| := (abs_div_26214 s).symm

/-- Settles O30: the two roundings of R71 are one, since the first is exact. -/
theorem scalevIsOneRounding : Obligations.ScalevIsOneRounding :=
  fun F s => scaleV_eq_rne F (natAbs_toInt_le s)

/-- Settles O33: `RNE_F` is monotonic over the finite range. -/
theorem scalevIsMonotonic : Obligations.ScalevIsMonotonic := by
  intro F s t h
  have hs := inRange_div_26214 F (natAbs_toInt_le s)
  have ht := inRange_div_26214 F (natAbs_toInt_le t)
  rw [scaleV_eq_rne F (natAbs_toInt_le s), scaleV_eq_rne F (natAbs_toInt_le t)]
  refine ⟨_, _, toRat?_rne_of_inRange hs, toRat?_rne_of_inRange ht, rneValue_mono hs ht ?_⟩
  gcongr

/-- Settles O32: a non-zero sample's quotient is a normal magnitude, its sign goes into the sign bit alone, and `13107 * j` has the
quotient `j / 2`, which is exact. -/
theorem scalevIsNormalOddAndExactAtHalves : Obligations.ScalevIsNormalOddAndExactAtHalves := by
  intro F
  refine ⟨fun s => ⟨format_scaleV F _, ?finite, fun hs => ?normal⟩, scaleV_zero F, fun n hn hmax => ?odd,
    fun j hlo hhi => ?half⟩
  case finite =>
    rw [scaleV_eq_rne F (natAbs_toInt_le s)]
    exact (isNearestEven_rne (inRange_div_26214 F (natAbs_toInt_le s))).finite
  case normal =>
    rw [scaleV_eq_rne F (natAbs_toInt_le s)]
    exact two_pow_le_pattern_rne (least_normal_le_div_26214 F fun h => hs (BitVec.eq_of_toInt_eq (y := 0) h))
  case odd =>
    have hpos : (0 : Rat) < n / 26214 := by positivity
    rw [scaleV_eq_rne F (s := n) (by omega), scaleV_eq_rne F (s := -n) (by omega)]
    push_cast
    rw [neg_div, pattern_rne_neg, negative_rne_eq_decide, negative_rne_eq_decide]
    exact ⟨rfl, decide_eq_false hpos.le.not_gt, decide_eq_true (neg_neg_of_pos hpos)⟩
  case half =>
    have hs : (13107 * j).natAbs ≤ 131072 := by omega
    have hquot : ((13107 * j : Int) : Rat) / 26214 = j / 2 := by push_cast; ring
    rw [scaleV_eq_rne F hs, toRat?_rne_of_inRange (inRange_div_26214 F hs), hquot, rneValue_half F (by omega)]

end Sys2Proof.Machine
end

section
/-! A binary64 intermediate changes no binary32 voltage (42_scale.md R72, step 3). Where `s / 26214` is no multiple of one half, it
lies at no midpoint of two binary32 values: any value other than the nearest is farther away by a margin that exceeds what the
rounding to binary64 moves the quotient. So the nearest value stays the nearest, and strictly so. -/

namespace Sys2Proof.Machine

/-! ## A value determines its pattern -/

/-- Every pattern is a step's number and a significand, packed as `patternValue_eq` reads them. -/
theorem exists_packed (F : VoltageFormat) (p : Nat) :
    ∃ t k : Nat, k < 2 ^ precision F ∧ (t = 0 ∨ 2 ^ (precision F - 1) ≤ k) ∧ p = t * 2 ^ (precision F - 1) + k := by
  have hp := two_pow_precision F
  have hdiv := Nat.div_add_mod' p (2 ^ (precision F - 1))
  have hmod := Nat.mod_lt p (by positivity : 0 < 2 ^ (precision F - 1))
  rcases Nat.eq_zero_or_eq_succ_pred (p / 2 ^ (precision F - 1)) with h | h
  · exact ⟨0, p, by rw [h] at hdiv; omega, .inl rfl, by omega⟩
  · refine ⟨(p / 2 ^ (precision F - 1)).pred, 2 ^ (precision F - 1) + p % 2 ^ (precision F - 1), by omega, .inr (by omega), ?_⟩
    rw [h, Nat.succ_mul] at hdiv
    omega

theorem patternValue_packed (F : VoltageFormat) {t k : Nat} (hk : k ≤ 2 ^ precision F)
    (hn : t = 0 ∨ 2 ^ (precision F - 1) ≤ k) :
    patternValue F (t * 2 ^ (precision F - 1) + k) = k * 2 ^ (leastExponent F + t) := by
  rw [← patternValue_eq F (by omega) hk (hn.imp_left fun h => by omega), add_sub_cancel_left, Int.toNat_natCast]

/-- The next pattern holds the next multiple of the step. -/
theorem patternValue_strictMono (F : VoltageFormat) : StrictMono (patternValue F) := by
  refine strictMono_nat_of_lt_succ fun p => ?_
  obtain ⟨t, k, hk, hn, rfl⟩ := exists_packed F p
  rw [add_assoc, patternValue_packed F hk.le hn, patternValue_packed F hk (hn.imp_right (·.trans k.le_succ))]
  gcongr
  exact k.lt_succ_self

/-- Where every other value is farther from a by more than twice the distance to b, the value nearest to a is nearest to b. -/
theorem IsNearestEven.eq_of_margin {F : VoltageFormat} {a b : Rat} {p p' : Nat} (h : IsNearestEven F b p')
    (margin : ∀ k, patternValue F k ≠ patternValue F p → |a - patternValue F p| + 2 * |a - b| < |a - patternValue F k|) :
    p' = p := by
  by_contra hne
  have farther := margin p' ((patternValue_strictMono F).injective.ne hne)
  have near := h.nearest p
  have toValue := abs_sub_le a b (patternValue F p')
  have fromValue := abs_sub_le b a (patternValue F p)
  rw [abs_sub_comm b a] at fromValue
  linarith

theorem rne_congr {F : VoltageFormat} {x y : Rat} (hneg : y < 0 ↔ x < 0) (h : (rne F y).pattern = (rne F x).pattern) :
    rne F y = rne F x := by
  rw [pattern_rne, pattern_rne] at h
  simp only [rne, Rat.num_neg, hneg, h]

/-! ## The step around a normal magnitude -/

/-- `2^q` is the step of format F around the magnitude a, and m the multiple of it that a is rounded to. -/
structure StepAround (F : VoltageFormat) (a : Rat) (q : Int) (m : Nat) : Prop where
  lower : 2 ^ (precision F - 1) * 2 ^ q ≤ a
  upper : a < 2 ^ precision F * 2 ^ q
  near : |a - m * 2 ^ q| ≤ 2 ^ q / 2

theorem abs_sub_ulpMultiple_le (F : VoltageFormat) (n : Nat) {d : Nat} (hd : 0 < d) :
    |(n : Rat) / d - ulpMultiple F n d * 2 ^ ulpExponent F n d| ≤ 2 ^ ulpExponent F n d / 2 := by
  have hq : (0 : Rat) < 2 ^ ulpExponent F n d := by positivity
  have near := abs_sub_divNearestEven_le (n * 2 ^ (-ulpExponent F n d).toNat)
    (d := d * 2 ^ (ulpExponent F n d).toNat) (by positivity)
  rw [scaled_quotient] at near
  calc |(n : Rat) / d - ulpMultiple F n d * 2 ^ ulpExponent F n d|
      = |(n : Rat) / d / 2 ^ ulpExponent F n d - ulpMultiple F n d| * 2 ^ ulpExponent F n d := by
        rw [← abs_of_pos hq, ← abs_mul, abs_of_pos hq, sub_mul, div_mul_cancel₀ _ hq.ne']
    _ ≤ 1 / 2 * 2 ^ ulpExponent F n d := by gcongr; exact near
    _ = 2 ^ ulpExponent F n d / 2 := by ring

theorem exists_stepAround {F : VoltageFormat} {x : Rat} (hx : InRange F x)
    (hlo : 2 ^ (precision F - 1) * 2 ^ leastExponent F ≤ |x|) :
    ∃ q m, StepAround F |x| q m ∧ patternValue F (rne F x).pattern = m * 2 ^ q := by
  have hn : 0 < x.num.natAbs := by
    have : 0 < |x| := lt_of_lt_of_le (by positivity) hlo
    simpa using this
  have hd := x.den_pos
  have value := patternValue_eq F (leastExponent_le_ulpExponent F x.num.natAbs x.den) (ulpMultiple_le_two_pow hn hd)
    (two_pow_le_ulpMultiple hn hd)
  have finite := packed_lt_infinityPattern hn hd ((num_natAbs_div_den x).trans_le hx)
  have lower := ulp_le F hn hd
  have upper := lt_ulp F hn hd
  have near := abs_sub_ulpMultiple_le F x.num.natAbs hd
  rw [num_natAbs_div_den] at lower upper near
  refine ⟨_, _, ⟨lower.elim (fun h => h ▸ hlo) id, upper, near⟩, ?_⟩
  rw [pattern_rne, magnitudePattern_of_pos F hn, min_eq_right finite.le, value]

/-- A magnitude has no coarser step in the format of more precision. -/
theorem StepAround.finer {a : Rat} {q q' : Int} {m m' : Nat} (h : StepAround .binary32 a q m)
    (h' : StepAround .binary64 a q' m') : q' ≤ q - 29 := by
  have hlt : (2 : Rat) ^ (52 + q') < 2 ^ (24 + q) := by
    rw [zpow_add₀ two_ne_zero, zpow_add₀ two_ne_zero]
    exact h'.lower.trans_lt h.upper
  have := (zpow_lt_zpow_iff_right₀ one_lt_two).mp hlt
  omega

/-- Where `2^(q + 1)` is the binary32 step, the rounding to binary64 moves the magnitude by less than half of `2^q / 26214`. -/
theorem StepAround.moved_lt {a : Rat} {q q' : Int} {m m' : Nat} (h : StepAround .binary32 a (q + 1) m)
    (h' : StepAround .binary64 a q' m') : 2 * |a - m' * 2 ^ q'| < 2 ^ q / 26214 := by
  have near := h'.near
  have part : (0 : Rat) < 2 ^ q := by positivity
  have finer : (2 : Rat) ^ q' ≤ 2 ^ (q + -28) :=
    zpow_le_zpow_right₀ one_le_two (by have := h.finer h'; omega)
  rw [zpow_add₀ two_ne_zero, show (2 : Rat) ^ (-28 : Int) = 1 / 268435456 by norm_num] at finer
  linarith

theorem StepAround.exponent_neg {a : Rat} {q : Int} {m : Nat} (h : StepAround .binary32 a q m) (ha : a ≤ 6) : q < 0 := by
  have lower : 2 ^ 23 * (2 : Rat) ^ q ≤ a := h.lower
  have hlt : (2 : Rat) ^ q < 2 ^ (0 : Int) := by
    rw [zpow_zero]
    linarith
  exact (zpow_lt_zpow_iff_right₀ one_lt_two).mp hlt

/-! ## No quotient at a midpoint -/

/-- `n / 26214` is as near to two multiples of a power of two only if it lies midway, and then 13107 divides n. -/
theorem abs_sub_ne_of_not_dvd {n j k m : Nat} (hn : ¬ 13107 ∣ n) (hk : k ≠ m) :
    |(n * 2 ^ j : Int) - 26214 * m| ≠ |(n * 2 ^ j : Int) - 26214 * k| := by
  intro h
  rcases abs_eq_abs.mp h with h | h
  · omega
  · have midway : n * 2 ^ j = 13107 * (m + k) := by
      have : (n * 2 ^ j : Int) = 13107 * (m + k) := by linarith
      exact_mod_cast this
    exact hn (Nat.Coprime.dvd_of_dvd_mul_right (Nat.Coprime.pow_right j (by decide)) ⟨_, midway⟩)

/-- The distance is a whole number of parts `2^(-j) / 26214`, so a multiple farther away is farther by one part. -/
theorem margin_of_multiple {n j k m : Nat} (hn : ¬ 13107 ∣ n) (hk : k ≠ m)
    (h : |(n : Rat) / 26214 - m * 2 ^ (-j : Int)| ≤ |(n : Rat) / 26214 - k * 2 ^ (-j : Int)|) :
    |(n : Rat) / 26214 - m * 2 ^ (-j : Int)| + 2 ^ (-j : Int) / 26214 ≤ |(n : Rat) / 26214 - k * 2 ^ (-j : Int)| := by
  have part : (0 : Rat) < 2 ^ (-j : Int) / 26214 := by positivity
  have inParts : ∀ i : Nat, |(n : Rat) / 26214 - i * 2 ^ (-j : Int)| =
      (|(n * 2 ^ j : Int) - 26214 * i| : Int) * (2 ^ (-j : Int) / 26214) := by
    intro i
    conv_rhs => rw [Int.cast_abs, ← abs_of_pos part, ← abs_mul]
    congr 1
    push_cast
    rw [zpow_neg, zpow_natCast]
    field_simp
  rw [inParts, inParts] at h ⊢
  have hle := (Int.cast_le (R := Rat)).mp (le_of_mul_le_mul_right h part)
  have hlt := Int.add_one_le_of_lt (hle.lt_of_ne (abs_sub_ne_of_not_dvd hn hk))
  calc _ = ((|(n * 2 ^ j : Int) - 26214 * m| + 1 : Int) : Rat) * (2 ^ (-j : Int) / 26214) := by push_cast; ring
    _ ≤ _ := mul_le_mul_of_nonneg_right (Int.cast_le.mpr hlt) part.le

/-- Every binary32 value but the nearest is farther from the quotient by the same margin: it is a multiple of half the step, or lies
far below the quotient. -/
theorem margin_of_patternValue {n j m p k : Nat} (hn : ¬ 13107 ∣ n)
    (step : StepAround .binary32 ((n : Rat) / 26214) (-j + 1) m)
    (nearest : IsNearestEven .binary32 ((n : Rat) / 26214) p) (value : patternValue .binary32 p = m * 2 ^ (-j + 1 : Int))
    (hk : patternValue .binary32 k ≠ patternValue .binary32 p) :
    |(n : Rat) / 26214 - patternValue .binary32 p| + 2 ^ (-j : Int) / 26214 ≤ |(n : Rat) / 26214 - patternValue .binary32 k| := by
  have near := nearest.nearest k
  have half : (2 : Rat) ^ (-j + 1 : Int) = 2 * 2 ^ (-j : Int) := by rw [zpow_add_one₀ two_ne_zero, mul_comm]
  have hp : patternValue .binary32 p = (2 * m : Nat) * 2 ^ (-j : Int) := by
    rw [value, half]
    push_cast
    ring
  rcases patternValue_multiple_or_lt .binary32 (-j) k with ⟨i, hi⟩ | ⟨-, hlt⟩
  · rw [hi, hp] at near hk ⊢
    exact margin_of_multiple hn (by rintro rfl; exact hk rfl) near
  · have lower : 2 ^ 23 * (2 : Rat) ^ (-j + 1 : Int) ≤ n / 26214 := step.lower
    have close := step.near
    have below : patternValue .binary32 k < 2 ^ 23 * 2 ^ (-j : Int) := hlt
    have part : (0 : Rat) < 2 ^ (-j : Int) := by positivity
    rw [← value, half] at close
    rw [half] at lower
    refine le_trans ?_ (le_abs_self _)
    linarith

/-! ## The second rounding -/

theorem rneValue_neg_iff {F : VoltageFormat} {x : Rat} (h : 0 < (rne F x).pattern) : rneValue F x < 0 ↔ x < 0 := by
  have pos : 0 < patternValue F (magnitudePattern F x.num.natAbs x.den) := by
    rw [← patternValue_zero F, ← pattern_rne]
    exact patternValue_strictMono F h
  rcases lt_or_ge x 0 with hx | hx
  · simp [rneValue_of_neg hx, hx, pos]
  · simp [rneValue_of_nonneg hx, hx.not_gt, pos.not_gt]

theorem abs_rneValue_le {F : VoltageFormat} {x : Rat} (hx : InRange F x) : |rneValue F x| ≤ 2 * |x| := by
  have near := (isNearestEven_rne hx).nearest 0
  rw [pattern_rne, ← abs_rneValue, patternValue_zero, sub_zero, abs_abs] at near
  linarith [(abs_le.mp near).1]

theorem rne_rneValue_of_not_dvd {s : Int} (hs : s.natAbs ≤ 131072) (hd : ¬ 13107 ∣ s.natAbs) :
    rne .binary32 (rneValue .binary64 (s / 26214)) = rne .binary32 (s / 26214) := by
  have h0 : s ≠ 0 := by rintro rfl; exact hd (dvd_zero _)
  have hx := fun F => inRange_div_26214 F hs
  have hlo := fun F => least_normal_le_div_26214 F h0
  have hle := abs_div_26214_le hs
  have hy : InRange .binary32 (rneValue .binary64 (s / 26214)) :=
    inRange_of_abs_le (by linarith [abs_rneValue_le (hx .binary64)])
  have normal : 0 < (rne .binary64 (s / 26214)).pattern := (two_pow_le_pattern_rne (hlo .binary64)).trans_lt' (by positivity)
  have nearest := isNearestEven_rne (hx .binary32)
  obtain ⟨q, m, step, value⟩ := exists_stepAround (hx .binary32) (hlo .binary32)
  obtain ⟨q', m', step', value'⟩ := exists_stepAround (hx .binary64) (hlo .binary64)
  obtain ⟨j, hj⟩ := Int.eq_ofNat_of_zero_le (by have := step.exponent_neg hle; omega : 0 ≤ 1 - q)
  obtain rfl : q = -j + 1 := by omega
  have moved := step.moved_lt step'
  rw [← value', pattern_rne, ← abs_rneValue] at moved
  rw [abs_div_26214] at step nearest moved
  refine rne_congr (rneValue_neg_iff normal)
    ((isNearestEven_rne hy).eq_of_margin (a := s.natAbs / 26214) fun k hk => ?_)
  linarith [margin_of_patternValue hd step nearest value hk]

/-- Settles O31: a multiple of one half is exact in binary64, and any other quotient keeps its nearest binary32 value. -/
theorem doubleRoundingChangesNothing : Obligations.DoubleRoundingChangesNothing := by
  intro s
  have hs := natAbs_toInt_le s
  rw [scaleV_eq_rne _ hs, scaleV_eq_rne _ hs]
  refine ⟨_, toRat?_rne_of_inRange (inRange_div_26214 _ hs), ?_⟩
  by_cases hd : 13107 ∣ s.toInt.natAbs
  · obtain ⟨j, hj⟩ := Int.ofNat_dvd_left.mpr hd
    have hquot : (s.toInt : Rat) / 26214 = j / 2 := by
      rw [hj]
      push_cast
      ring
    rw [hquot, rneValue_half _ (by omega)]
  · exact rne_rneValue_of_not_dvd hs hd

end Sys2Proof.Machine
end

section
/-! Readout (43_readout.md R77 to R81). Each read is one of the outcomes said once in `FaultCondition.exec_eq` and
`Completes.exec_eq`. -/

namespace Sys2Proof.Machine

/-! ## One register -/

/-- Settles O35: the range check comes before the check of SV, and sign extension keeps the sample's value. -/
theorem readRawReturnsTheSample : Obligations.ReadRawReturnsTheSample := by
  intro ch
  refine ⟨packWord_toNat 5 ch, fun s hf hc => (Completes.rawSentinel ch hc).exec_eq hf, fun s hf hc hv => ?fault,
    fun s hc hf hv => ⟨_, (Completes.raw ch hc hv).exec_eq hf, rawValue_toInt _, fun hs => ?minusOne⟩⟩
  case fault => exact FaultCondition.exec_eq (c := .uninitSample) ⟨hv, .inr ⟨ch, hc, rfl⟩⟩ hf
  case minusOne => exact BitVec.eq_of_toInt_eq ((rawValue_toInt _).trans hs)

/-- Settles O37: the range check comes before the check of VV, and VC is not checked at all. -/
theorem readVoltReturnsTheVoltage : Obligations.ReadVoltReturnsTheVoltage := by
  intro ch
  refine ⟨packWord_toNat 6 ch, fun s hf hc => (Completes.voltSentinel ch hc).exec_eq hf, fun s hf hc hv => ?fault,
    fun s hc hf hv => (Completes.volt ch hc hv).exec_eq hf, fun F => (scaleV_zero F).symm⟩
  case fault => exact FaultCondition.exec_eq (c := .uninitVolt) ⟨hv, .inr ⟨ch, hc, rfl⟩⟩ hf

/-- Settles O41: a channel of 8..255 selects no register, so neither read reaches a check that faults. -/
theorem outOfRangeReadsNeverFault : Obligations.OutOfRangeReadsNeverFault := fun _ ch hf hc =>
  ⟨_, _, (Completes.rawSentinel ch hc).exec_eq hf, (Completes.voltSentinel ch hc).exec_eq hf, rfl, rfl, rfl, rfl⟩

/-! ## All eight voltages -/

theorem toList_scaledVolts (F : VoltageFormat) (sample : Vector (BitVec 18) 8) :
    (scaledVolts F sample).toList = (sample.toList.map BitVec.toInt).map (scaleV F) := by
  apply List.ext_getElem
  · simp
  · simp

/-- The voltages of the samples in R79's example. -/
theorem scaledVolts_of_exampleSamples {sample : Vector (BitVec 18) 8}
    (h : sample.toList.map BitVec.toInt = [131071, -131072, -1, 0, 65535, 1, 26214, -26214]) :
    scaledVolts .binary32 sample =
      #v[.binary32 0x40A00050, .binary32 0xC0A000A0, .binary32 0xB82000A0, .binary32 0x00000000, .binary32 0x40200000,
        .binary32 0x382000A0, .binary32 0x3F800000, .binary32 0xBF800000] := by
  rw [← Vector.toList_inj, toList_scaledVolts, h]
  decide +kernel

/-- A command only appends to the responses given before it. -/
theorem responses_prefix_of_exec {s t : State} {i : Instr} (h : exec i s = .next t) : s.responses <+: t.responses := by
  obtain ⟨r, hr, -⟩ := exec_next_response h
  exact hr ▸ List.prefix_append _ _

theorem exec_readAllVolt_of_valid {s : State} (hf : s.faulted = false) (hv : s.vv = true) :
    exec .readAllVolt s = .next (s.respond (.volts s.volt)) :=
  (Completes.volts hv).exec_eq hf

/-- Settles O38: the check of VV is the only one, and after a `SCALE` it passes and the snapshot holds the new voltages. -/
theorem readAllVoltReturnsOneSnapshot : Obligations.ReadAllVoltReturnsOneSnapshot := by
  refine ⟨rfl, fun s hf hv => ?fault, fun s hf hv => exec_readAllVolt_of_valid hf hv, fun _ _ _ => responses_prefix_of_exec,
    fun s t u hf hv hF hs hst htu => ?exampleRun⟩
  case fault => exact FaultCondition.exec_eq (c := .uninitVolt) ⟨hv, .inl rfl⟩ hf
  case exampleRun =>
    obtain rfl := Host.Outcome.next.inj (hst.symm.trans (exec_scale_of_valid hf hv))
    obtain rfl := Host.Outcome.next.inj (htu.symm.trans (exec_readAllVolt_of_valid hf rfl))
    simp [hF, scaledVolts_of_exampleSamples hs]

/-! ## STATUS -/

/-- A row of one word: an opcode whose command takes no operand has no legal word but the one with IMM8 = 0. -/
theorem decode_error_of_plain_opcode {w v : Word} (hv : v.toNat % 4096 = 0) (hop : w.toNat / 4096 = v.toNat / 4096)
    (hplain : v.toNat / 4096 ∉ [2, 5, 6]) (hw : w ≠ v) : ∃ e, decode w = .error e := by
  have hne : w.toNat ≠ v.toNat := fun h => hw (BitVec.eq_of_toNat_eq h)
  simp only [List.mem_cons, List.not_mem_nil, not_or] at hplain
  rw [exists_decode_error_iff, exists_decode_ok_iff]
  omega

/-- R80's example: an `UNPACK` one byte short of a frame, before any sample or voltage is valid. -/
theorem statusWord_takeFault_frameIncomplete {s : State} (ho : s.isOpen = true) (hc : s.cnt = 17) (hsv : s.sv = false)
    (hvv : s.vv = false) (hvc : s.vc = false) : statusWord (s.takeFault .frameIncomplete) = 0x00001231 := by
  simp [statusWord, ho, hc, hsv, hvv, hvc, Cause.code]

/-- Settles O39: `READ_STATUS` alone has no fault-state check, and its opcode has one legal word. -/
theorem readStatusReturnsStatusInEveryState : Obligations.ReadStatusReturnsStatusInEveryState := by
  refine ⟨rfl, fun w hop hw => ?illegal, fun s => rfl, fun s i hc hf hi => exec_of_faulted_of_ne hi hf hc.1,
    fun f => statusWord_resetWith ⟨f, false⟩, fun s t hf _ ho hc hsv hvv hvc h => ?incomplete⟩
  case illegal => exact decode_error_of_plain_opcode (v := 0x8000) (by decide) hop (by decide) hw
  case incomplete =>
    have fault : FaultCondition s .unpack .frameIncomplete := ⟨ho, by simp [hc], rfl⟩
    obtain rfl := Host.Outcome.next.inj (h.symm.trans (fault.exec_eq hf))
    exact statusWord_takeFault_frameIncomplete ho hc hsv hvv hvc

end Sys2Proof.Machine
end

section
/-! The faults of 60_exceptions.md. What a running block does on a command is a fault entry under its condition, or an effect that
leaves FAULTED and FCAUSE alone; the conditions read control bits only, and at most one of them holds. -/

namespace Sys2Proof.Machine

/-! ## The cause table (60_exceptions.md R84) -/

/-- Codes 5 and 6 need a valid bit that is 0 (60_exceptions.md R84). -/
theorem FaultCondition.code_ne_of_valid {s : State} {i : Instr} {c : Cause} (h : FaultCondition s i c) (hs : s.sv = true)
    (hv : s.vv = true) : c.code ≠ 5 ∧ c.code ≠ 6 := by
  cases c with
  | uninitSample => simp [hs, FaultCondition] at h
  | uninitVolt => simp [hv, FaultCondition] at h
  | _ => decide

theorem State.CauseInTable.takeFault {s : State} {c : Cause} (h : s.CauseInTable)
    (hc : c = .illegalCmd ∨ ∃ i, FaultCondition s i c) : (s.takeFault c).CauseInTable := by
  refine ⟨c.code_ne.2, fun hz => ?_⟩
  obtain ⟨hs, hv, -⟩ := h.2 hz
  refine ⟨hs, hv, ?_⟩
  rcases hc with rfl | ⟨i, hc⟩
  · simp [Cause.code]
  · exact hc.code_ne_of_valid hs hv

/-- An effect clears neither SV nor VV and leaves FCAUSE alone (10_state.md R21, R22). -/
theorem State.CauseInTable.effect {s t : State} {i : Instr} (h : s.CauseInTable) (hc : Completes s i t) : t.CauseInTable := by
  obtain ⟨h7, hz⟩ := h
  cases hc with
  | unpack => exact ⟨h7, fun z => ⟨rfl, (hz z).2⟩⟩
  | scale => exact ⟨h7, fun z => ⟨(hz z).1, rfl, (hz z).2.2⟩⟩
  | _ => exact ⟨h7, hz⟩

/-- Settles O17: under ZERO_INIT both valid bits are 1 from reset on, so the checks that raise codes 5 and 6 pass. -/
theorem stepKeepsTheCauseInTheTable : Obligations.StepKeepsTheCauseInTheTable := fun _ _ =>
  step_keeps (fun _ _ _ h => h) (fun s _ => (resetMeetsTheInvariants s.params).2.2) (fun _ _ _ hc h => h.takeFault hc)
    (fun _ _ _ _ hc h => h.effect hc)

/-! ## A running block -/

theorem Completes.fcause_eq {s t : State} {i : Instr} (h : Completes s i t) : t.fcause = s.fcause := by
  cases h <;> rfl

theorem exec_next_of_running {s t : State} {i : Instr} (h : exec i s = .next t) (hf : s.faulted = false) :
    (∃ c, FaultCondition s i c ∧ t = s.takeFault c) ∨ (t.faulted = false ∧ t.fcause = s.fcause) := by
  rcases exec_next h with ⟨-, hr, -⟩ | ⟨-, rfl⟩ | ⟨-, hc⟩ | ⟨-, hc⟩
  · simp [hf] at hr
  · exact .inr ⟨hf, rfl⟩
  · exact .inl hc
  · obtain ⟨-, -, -, hft, -⟩ := hc.response
    exact .inr ⟨hft.trans hf, hc.fcause_eq⟩

theorem exec_fault_entry {s t : State} {i : Instr} (h : exec i s = .next t) (hf : s.faulted = false)
    (ht : t.faulted = true) : ∃ c, t = s.takeFault c := by
  rcases exec_next_of_running h hf with ⟨c, -, hc⟩ | ⟨hn, -⟩
  · exact ⟨c, hc⟩
  · simp [hn] at ht

theorem FaultCondition.eq_takeFault {s t : State} {i : Instr} {c : Cause} (hc : FaultCondition s i c)
    (h : exec i s = .next t) (hf : s.faulted = false) : t = s.takeFault c :=
  Host.Outcome.next.inj (h.symm.trans (hc.exec_eq hf))

theorem step_of_illegal_word {s t : State} {w : Word} {rest : List HostEvent} {e : DecodeError}
    (h : s.inputs = .command w :: rest) (hd : decode w = .error e) (hf : s.faulted = false) (hst : step s = .next t) :
    t = State.takeFault { s with inputs := rest } .illegalCmd :=
  Host.Outcome.next.inj (hst.symm.trans ((step_of_decode_error h hd).trans (illegalCommand_of_running hf)))

/-- Settles O44: only a fault entry sets FAULTED, for a legal word and for an illegal one. -/
theorem faultEntryChangesNothingElse : Obligations.FaultEntryChangesNothingElse := by
  intro s t w rest h hf hst ht
  cases hd : decode w with
  | ok i => exact exec_fault_entry ((step_of_decode_ok h hd).symm.trans hst) hf ht
  | error e => exact ⟨.illegalCmd, step_of_illegal_word h hd hf hst⟩

/-! ## The fault state (60_exceptions.md R86) -/

/-- Settles O45: 0x8000 is the one word of the one command without a fault-state check. -/
theorem faultStateRefusesAllButReadStatus : Obligations.FaultStateRefusesAllButReadStatus := by
  intro s w rest hc hf h
  cases hd : decode w with
  | ok i =>
    rw [step_of_decode_ok h hd]
    by_cases hi : i = .readStatus
    · rw [if_pos ((eq_readStatus_iff hd).mp hi), hi]
      rfl
    · rw [if_neg fun hw => hi ((eq_readStatus_iff hd).mpr hw)]
      exact exec_of_faulted_of_ne hi hf hc.1
  | error e =>
    have hw : w ≠ 0x8000 := by
      rintro rfl
      exact absurd (hd.symm.trans (decode_encode .readStatus)) (by simp)
    rw [step_of_decode_error h hd, if_neg hw]
    exact illegalCommand_of_faulted hf hc.1

/-! ## Which fault is taken (60_exceptions.md R84, R87) -/

theorem Cause.code_inj {c d : Cause} : c.code = d.code ↔ c = d := by
  cases c <;> cases d <;> decide

theorem exec_fcause_eq_code_iff {s t : State} {i : Instr} (h : exec i s = .next t) (hf : s.faulted = false)
    (h0 : s.fcause = 0) (c : Cause) : t.fcause = c.code ↔ FaultCondition s i c := by
  refine ⟨fun ht => ?_, fun hc => hc.eq_takeFault h hf ▸ rfl⟩
  rcases exec_next_of_running h hf with ⟨d, hd, rfl⟩ | ⟨-, hs⟩
  · exact Cause.code_inj.mp ht ▸ hd
  · exact absurd (ht.symm.trans (hs.trans h0)) c.code_ne.1

/-- Settles O48: an illegal word has cause 1 and no other, and a command has each cause under the condition of its row. -/
theorem eachFaultHasItsCondition : Obligations.EachFaultHasItsCondition := by
  intro s t w rest hinv hf h hst
  have faulted : t.faulted = true ↔ t.fcause ≠ 0 := by
    rw [ne_eq, ← (stepKeepsTheStateInvariants.2 s t hinv hst).faultedHasCause, Bool.not_eq_false]
  cases hd : decode w with
  | ok i =>
    have taken := exec_fcause_eq_code_iff ((step_of_decode_ok h hd).symm.trans hst) hf (hinv.faultedHasCause.mp hf)
    simp only [Except.ok.injEq]
    refine ⟨(taken .illegalCmd).trans (by simp [FaultCondition]), (taken .noFrame).trans and_comm,
      (taken .frameOverrun).trans and_rotate.symm, (taken .frameIncomplete).trans and_rotate.symm,
      (taken .uninitSample).trans ?_, (taken .uninitVolt).trans ?_, faulted⟩
    · simp only [FaultCondition, and_comm]
    · simp only [FaultCondition, and_comm, or_comm]
  | error e =>
    obtain rfl := step_of_illegal_word h hd hf hst
    simp [Cause.code]

/-! ## Data values play no part (60_exceptions.md R88) -/

theorem FaultCondition.congr {s s' : State} {i : Instr} {c : Cause} (h : FaultCondition s i c) (hcnt : s.cnt = s'.cnt)
    (hopen : s.isOpen = s'.isOpen) (hsv : s.sv = s'.sv) (hvv : s.vv = s'.vv) : FaultCondition s' i c := by
  cases c with
  | illegalCmd => exact h
  | _ => simpa only [FaultCondition, hcnt, hopen, hsv, hvv] using h

/-- Settles O49: a fault entry writes FAULTED and FCAUSE alone, and two states with the same control bits meet the same
condition. -/
theorem faultsDependOnControlBitsOnly : Obligations.FaultsDependOnControlBitsOnly := by
  refine ⟨fun s t i hf h ht => ?_, fun s s' t t' i hcnt hopen hsv hvv hfaulted hfcause h h' => ?_⟩
  · obtain ⟨c, rfl⟩ := exec_fault_entry h hf ht
    exact ⟨rfl, rfl, rfl⟩
  · cases hf : s.faulted with
    | true =>
      obtain ⟨r, rfl⟩ := exec_next_of_faulted h hf
      obtain ⟨r', rfl⟩ := exec_next_of_faulted h' (hfaulted ▸ hf)
      exact ⟨hfaulted, hfcause⟩
    | false =>
      have hf' : s'.faulted = false := hfaulted ▸ hf
      rcases exec_next_of_running h hf with ⟨c, hc, rfl⟩ | ⟨hn, hs⟩
      · rw [(hc.congr hcnt hopen hsv hvv).eq_takeFault h' hf']
        exact ⟨rfl, rfl⟩
      · rcases exec_next_of_running h' hf' with ⟨c, hc, -⟩ | ⟨hn', hs'⟩
        · rw [(hc.congr hcnt.symm hopen.symm hsv.symm hvv.symm).eq_takeFault h hf] at hn
          simp at hn
        · exact ⟨hn.trans hn'.symm, hs.trans (hfcause.trans hs'.symm)⟩

end Sys2Proof.Machine
end

section
/-! Reset and hazards (70_reset_and_hazards.md). Under the invariants every event at the port has an answer: the checks of a command
leave no case open while CNT names an element of BUF or stands at 18. -/

namespace Sys2Proof.Machine

/-! ## The block never hangs (70_reset_and_hazards.md R99, R106) -/

/-- The checks of a command are complete: one of them fails, or the command has its effect. -/
theorem faultCondition_or_completes {s : State} {i : Instr} (hi : i ≠ .readStatus) (hc : s.cnt.toNat ≤ 18) :
    (∃ c, FaultCondition s i c) ∨ ∃ t, Completes s i t := by
  cases i with
  | frameBegin => exact .inr ⟨_, .frameBegin⟩
  | pushByte b =>
    cases ho : s.isOpen with
    | false => exact .inl ⟨.noFrame, ho, .inl ⟨b, rfl⟩⟩
    | true =>
      rcases Nat.lt_or_eq_of_le hc with hlt | heq
      · exact .inr ⟨_, .pushByte b hlt ho⟩
      · exact .inl ⟨.frameOverrun, ho, BitVec.eq_of_toNat_eq heq, b, rfl⟩
  | unpack =>
    cases ho : s.isOpen with
    | false => exact .inl ⟨.noFrame, ho, .inr rfl⟩
    | true =>
      rcases Nat.lt_or_ge s.cnt.toNat 18 with hlt | hge
      · exact .inl ⟨.frameIncomplete, ho, hlt, rfl⟩
      · exact .inr ⟨_, .unpack ho hge⟩
  | scale =>
    cases hv : s.sv with
    | false => exact .inl ⟨.uninitSample, hv, .inl rfl⟩
    | true => exact .inr ⟨_, .scale hv⟩
  | readRaw ch =>
    rcases Nat.lt_or_ge ch.toNat 8 with hlt | hge
    · cases hv : s.sv with
      | false => exact .inl ⟨.uninitSample, hv, .inr ⟨ch, hlt, rfl⟩⟩
      | true => exact .inr ⟨_, .raw ch hlt hv⟩
    · exact .inr ⟨_, .rawSentinel ch hge⟩
  | readVolt ch =>
    rcases Nat.lt_or_ge ch.toNat 8 with hlt | hge
    · cases hv : s.vv with
      | false => exact .inl ⟨.uninitVolt, hv, .inr ⟨ch, hlt, rfl⟩⟩
      | true => exact .inr ⟨_, .volt ch hlt hv⟩
    · exact .inr ⟨_, .voltSentinel ch hge⟩
  | readAllVolt =>
    cases hv : s.vv with
    | false => exact .inl ⟨.uninitVolt, hv, .inl rfl⟩
    | true => exact .inr ⟨_, .volts hv⟩
  | readStatus => exact absurd rfl hi

theorem exists_exec_next {s : State} (i : Instr) (hcnt : s.cnt.toNat ≤ 18) (hcause : s.fcause ≠ 7) :
    ∃ t, exec i s = .next t := by
  by_cases hi : i = .readStatus
  · exact hi ▸ ⟨_, rfl⟩
  · cases hf : s.faulted with
    | true => exact ⟨_, exec_of_faulted_of_ne hi hf hcause⟩
    | false =>
      rcases faultCondition_or_completes hi hcnt with ⟨c, hc⟩ | ⟨t, hc⟩
      · exact ⟨_, hc.exec_eq hf⟩
      · exact ⟨t, hc.exec_eq hf⟩

theorem exists_illegalCommand_next {s : State} (hcause : s.fcause ≠ 7) : ∃ t, illegalCommand s = .next t := by
  cases hf : s.faulted with
  | true => exact ⟨_, illegalCommand_of_faulted hf hcause⟩
  | false => exact ⟨_, illegalCommand_of_running hf⟩

theorem step_of_no_event {s : State} (h : s.inputs = []) : step s = .next s := by
  rw [step, acceptEvent_nil h]

theorem step_of_reset {s : State} {p : Option Word} {rest : List HostEvent} (h : s.inputs = .reset p :: rest) :
    step s = .next (State.takeReset { s with inputs := rest }) := by
  rw [step, acceptEvent_cons h]

/-- Settles O13: CNT ≤ 18 keeps `PUSH_BYTE` inside BUF, and FCAUSE ≠ 7 keeps the fault state's refusal a response. -/
theorem stepAlwaysAnswersANextState : Obligations.StepAlwaysAnswersANextState := by
  intro s hinv ⟨hcause, _⟩
  cases h : s.inputs with
  | nil => exact ⟨s, step_of_no_event h⟩
  | cons e rest =>
    cases e with
    | reset p => exact ⟨_, step_of_reset h⟩
    | command w =>
      cases hd : decode w with
      | ok i =>
        rw [step_of_decode_ok h hd]
        exact exists_exec_next i hinv.cntAtMost18 hcause
      | error e =>
        rw [step_of_decode_error h hd]
        exact exists_illegalCommand_next hcause

/-! ## Stale voltages (70_reset_and_hazards.md R100) -/

/-- Settles O43: `UNPACK` writes neither VOLT nor VV, and `READ_VOLT` checks VV and not VC. -/
theorem staleVoltagesStayReadable : Obligations.StaleVoltagesStayReadable := by
  intro s ch h hf ho hc hv
  refine ⟨_, _, exec_unpack_of_full hf ho hc, (Completes.volt ch h ?valid).exec_eq ?running, rfl, rfl, hf, by simp⟩
  case valid => exact hv
  case running => exact hf

/-! ## The reset event and the empty port (70_reset_and_hazards.md R96, R97, R106) -/

@[simp] theorem statusWord_takeReset (s : State) : statusWord s.takeReset = statusWord (State.resetWith s.params) := rfl

/-- Settles O9: a reset event makes the state of power-on under the block's parameters and leaves the rest of the two ports. -/
theorem resetEventSetsEveryElement : Obligations.ResetEventSetsEveryElement := by
  intro s p rest h
  refine ⟨_, step_of_reset h, rfl, rfl, rfl, rfl, rfl, rfl, rfl, fun _ k => ?registers, ?status, rfl, rfl, rfl⟩
  case registers => simp
  case status => exact (statusWord_takeReset _).trans (statusWord_resetWith s.params)

/-- Settles O11: a step without an event answers the state it is in. -/
theorem emptyPortChangesNothing : Obligations.EmptyPortChangesNothing := fun _ => step_of_no_event

end Sys2Proof.Machine
end

section
/-! The reserved fault code 7 (60_exceptions.md R84, 93_implementation_defined.md I8; log entry 7). -/

namespace Sys2Proof.Machine

theorem refuseCommand_of_reserved {s : State} (h : s.fcause = 7) : refuseCommand s = .refused .reservedFaultCode :=
  if_pos h

/-- Settles O46: in the fault state a command other than `READ_STATUS` is `refuseCommand`, which has no response for code 7. -/
theorem reservedFaultCodeIsRefused : Obligations.ReservedFaultCodeIsRefused := fun _ _ hf hcause hi =>
  (exec_of_faulted hi hf).trans (refuseCommand_of_reserved hcause)

end Sys2Proof.Machine
end
